-- ==== Sys2Proof/Word.lean ====
section
/-! DEFINITION. The word types of the CHIP-8 core (00_scope.md R5, R7, R82).

Every quantity here is one the spec names by its width in bits. -/

namespace Sys2Proof

/-- A byte: a general register, a timer, a memory or framebuffer cell (R5, R20). -/
abbrev Byte := BitVec 8

/-- A 16-bit word: an opcode, `PC`, `I`, a return address (R5, R20, R80). -/
abbrev Word := BitVec 16

/-- A 4-bit field: a register number x or y, a height n, a key code (R81, R82, R44). -/
abbrev Nibble := BitVec 4

/-- A 12-bit address immediate nnn (R81, R82). -/
abbrev Addr := BitVec 12

/-- `zext_16` of a byte (R8). -/
def zextByte (b : Byte) : Word := b.setWidth 16

/-- `zext_16` of a 12-bit immediate (R8, R82). -/
def zextAddr (a : Addr) : Word := a.setWidth 16

end Sys2Proof
end

