-- ==== Sys2Proof/Syntax.lean ====
section
/-! DEFINITION. The 34 instructions of the decode table (30_encoding.md R94), one constructor a row, in the
table's order. The types of the operands are exactly the fields of R81, R83.

The `y` field of `SHR` and `SHL` is no operand: "any value of it decodes to the same instruction" (R95). -/

namespace Sys2Proof

/-- An instruction of the CHIP-8 core (R94). -/
inductive Instr where
  /-- `00E0` CLS (R208). -/
  | cls
  /-- `00EE` RET (R121). -/
  | ret
  /-- `1NNN` JP nnn (R123). -/
  | jp (nnn : Addr)
  /-- `2NNN` CALL nnn (R122). -/
  | call (nnn : Addr)
  /-- `3XNN` SE Vx, nn (R125). -/
  | seImm (x : Nibble) (nn : Byte)
  /-- `4XNN` SNE Vx, nn (R126). -/
  | sneImm (x : Nibble) (nn : Byte)
  /-- `5XY0` SE Vx, Vy (R127). -/
  | seReg (x y : Nibble)
  /-- `6XNN` LD Vx, nn (R161). -/
  | ldImm (x : Nibble) (nn : Byte)
  /-- `7XNN` ADD Vx, nn (R162). -/
  | addImm (x : Nibble) (nn : Byte)
  /-- `8XY0` LD Vx, Vy (R141). -/
  | ldReg (x y : Nibble)
  /-- `8XY1` OR Vx, Vy (R142). -/
  | orReg (x y : Nibble)
  /-- `8XY2` AND Vx, Vy (R143). -/
  | andReg (x y : Nibble)
  /-- `8XY3` XOR Vx, Vy (R144). -/
  | xorReg (x y : Nibble)
  /-- `8XY4` ADD Vx, Vy (R145). -/
  | addReg (x y : Nibble)
  /-- `8XY5` SUB Vx, Vy (R146). -/
  | subReg (x y : Nibble)
  /-- `8XY6` SHR Vx {, Vy} (R147); the y field is ignored (R95). -/
  | shr (x : Nibble)
  /-- `8XY7` SUBN Vx, Vy (R148). -/
  | subn (x y : Nibble)
  /-- `8XYE` SHL Vx {, Vy} (R149); the y field is ignored (R95). -/
  | shl (x : Nibble)
  /-- `9XY0` SNE Vx, Vy (R128). -/
  | sneReg (x y : Nibble)
  /-- `ANNN` LD I, nnn (R163). -/
  | ldI (nnn : Addr)
  /-- `BNNN` JP V0, nnn (R124). -/
  | jpV0 (nnn : Addr)
  /-- `CXNN` RND Vx, nn (R165). -/
  | rnd (x : Nibble) (nn : Byte)
  /-- `DXYN` DRW Vx, Vy, n (R205, R206, R207). -/
  | drw (x y n : Nibble)
  /-- `EX9E` SKP Vx (R230). -/
  | skp (x : Nibble)
  /-- `EXA1` SKNP Vx (R231). -/
  | sknp (x : Nibble)
  /-- `FX07` LD Vx, DT (R252). -/
  | ldVxDt (x : Nibble)
  /-- `FX0A` LD Vx, K (R232). -/
  | ldVxK (x : Nibble)
  /-- `FX15` LD DT, Vx (R253). -/
  | ldDtVx (x : Nibble)
  /-- `FX18` LD ST, Vx (R254). -/
  | ldStVx (x : Nibble)
  /-- `FX1E` ADD I, Vx (R164). -/
  | addI (x : Nibble)
  /-- `FX29` LD F, Vx (R184). -/
  | ldF (x : Nibble)
  /-- `FX33` LD B, Vx (R181). -/
  | ldB (x : Nibble)
  /-- `FX55` LD [I], Vx (R182). -/
  | storeRegs (x : Nibble)
  /-- `FX65` LD Vx, [I] (R183). -/
  | loadRegs (x : Nibble)
  deriving DecidableEq, Repr

end Sys2Proof
end

