-- ==== Sys2Proof/WellFormed.lean ====
section
/-! DEFINITION. Well-formedness (30_encoding.md R81, R83, R90-R93, R96).

A term of `Instr` carries its own well-formedness: each operand has exactly the width of its field (R81), and
"every other format uses all of its bits" (R95), so every value of every operand is admitted. What can be ill formed
is a WORD: R96 lists the words that are no instruction, family by family. There is one check for each of its six
sets; a word is well formed when it passes all of them. The decoder (Decode.lean) is written separately. -/

namespace Sys2Proof

/-- `family = opcode >> 12` (R81). -/
def Word.family (w : Word) : Nat := w.toNat / 4096

/-- `nn = opcode & 0xFF`, as a number (R81). -/
def Word.lowByte (w : Word) : Nat := w.toNat % 256

/-- `n = opcode & 0xF`, as a number (R81). -/
def Word.lowNibble (w : Word) : Nat := w.toNat % 16

/-- Family 0 holds the two whole words 0x00E0 and 0x00EE only (R90, R96). -/
def Word.family0Ok (w : Word) : Bool :=
  w.family != 0 || w.toNat == 0x00E0 || w.toNat == 0x00EE

/-- In family 5 only the low nibble 0 is legal (R91, R96). -/
def Word.family5Ok (w : Word) : Bool :=
  w.family != 5 || w.lowNibble == 0

/-- In family 8 the low nibble is 0 to 7 or E (R92, R96). -/
def Word.family8Ok (w : Word) : Bool :=
  w.family != 8 || [0, 1, 2, 3, 4, 5, 6, 7, 0xE].contains w.lowNibble

/-- In family 9 only the low nibble 0 is legal (R91, R96). -/
def Word.family9Ok (w : Word) : Bool :=
  w.family != 9 || w.lowNibble == 0

/-- In family E the low byte is 9E or A1 (R93, R96). -/
def Word.familyEOk (w : Word) : Bool :=
  w.family != 0xE || [0x9E, 0xA1].contains w.lowByte

/-- In family F the low byte is one of nine (R93, R96). -/
def Word.familyFOk (w : Word) : Bool :=
  w.family != 0xF || [0x07, 0x0A, 0x15, 0x18, 0x1E, 0x29, 0x33, 0x55, 0x65].contains w.lowByte

/-- The word is an instruction: it is in none of the six sets of R96. -/
def Word.wellFormed (w : Word) : Bool :=
  w.family0Ok && w.family5Ok && w.family8Ok && w.family9Ok && w.familyEOk && w.familyFOk

end Sys2Proof
end

