-- ==== Sys2Proof/Decode.lean ====
section
/-! DEFINITION. Decoding and encoding (30_encoding.md R80-R97).

`decode` is total on 16-bit words: one of the 34 instructions or `illegalOpcode` (R88). It follows R81 (the fields)
and R89-R93 (which field selects in which family). `encode` follows the formats of R83 and the patterns of R94.
The opcode map itself is the spec's from general knowledge (93_implementation_defined.md GK8; log 11). -/

namespace Sys2Proof

/-- What the decoder answers: an instruction, or the rejection by name of R96. -/
inductive Decoded where
  /-- The word is this instruction (R94). -/
  | instr (i : Instr)
  /-- The word matches no pattern (R96). -/
  | illegalOpcode
  deriving DecidableEq, Repr

/-- `x = (opcode >> 8) & 0xF` (R81). -/
def fieldX (w : Word) : Nibble := w.extractLsb' 8 4

/-- `y = (opcode >> 4) & 0xF` (R81). -/
def fieldY (w : Word) : Nibble := w.extractLsb' 4 4

/-- `n = opcode & 0xF` (R81). -/
def fieldN (w : Word) : Nibble := w.extractLsb' 0 4

/-- `nn = opcode & 0xFF` (R81). -/
def fieldNn (w : Word) : Byte := w.extractLsb' 0 8

/-- `nnn = opcode & 0xFFF` (R81). -/
def fieldNnn (w : Word) : Addr := w.extractLsb' 0 12

/-- `family = opcode >> 12` (R81). -/
def fieldFamily (w : Word) : Nibble := w.extractLsb' 12 4

/-- Family 8 decodes by the low nibble (R92). -/
def decodeFamily8 (n x y : Nibble) : Decoded :=
  match n with
  | 0x0#4 => .instr (.ldReg x y)
  | 0x1#4 => .instr (.orReg x y)
  | 0x2#4 => .instr (.andReg x y)
  | 0x3#4 => .instr (.xorReg x y)
  | 0x4#4 => .instr (.addReg x y)
  | 0x5#4 => .instr (.subReg x y)
  | 0x6#4 => .instr (.shr x)
  | 0x7#4 => .instr (.subn x y)
  | 0xE#4 => .instr (.shl x)
  | _ => .illegalOpcode

/-- Family E decodes by the low byte (R93). -/
def decodeFamilyE (nn : Byte) (x : Nibble) : Decoded :=
  match nn with
  | 0x9E#8 => .instr (.skp x)
  | 0xA1#8 => .instr (.sknp x)
  | _ => .illegalOpcode

/-- Family F decodes by the low byte (R93). -/
def decodeFamilyF (nn : Byte) (x : Nibble) : Decoded :=
  match nn with
  | 0x07#8 => .instr (.ldVxDt x)
  | 0x0A#8 => .instr (.ldVxK x)
  | 0x15#8 => .instr (.ldDtVx x)
  | 0x18#8 => .instr (.ldStVx x)
  | 0x1E#8 => .instr (.addI x)
  | 0x29#8 => .instr (.ldF x)
  | 0x33#8 => .instr (.ldB x)
  | 0x55#8 => .instr (.storeRegs x)
  | 0x65#8 => .instr (.loadRegs x)
  | _ => .illegalOpcode

/-- The decoder (R88): family 0 by the whole word (R90), families 5 and 9 by the low nibble (R91), family 8 by the
low nibble (R92), families E and F by the low byte (R93), every other family by the family nibble alone (R89). -/
def decode (w : Word) : Decoded :=
  match fieldFamily w with
  | 0x0#4 => if w = 0x00E0#16 then .instr .cls else if w = 0x00EE#16 then .instr .ret else .illegalOpcode
  | 0x1#4 => .instr (.jp (fieldNnn w))
  | 0x2#4 => .instr (.call (fieldNnn w))
  | 0x3#4 => .instr (.seImm (fieldX w) (fieldNn w))
  | 0x4#4 => .instr (.sneImm (fieldX w) (fieldNn w))
  | 0x5#4 => if fieldN w = 0#4 then .instr (.seReg (fieldX w) (fieldY w)) else .illegalOpcode
  | 0x6#4 => .instr (.ldImm (fieldX w) (fieldNn w))
  | 0x7#4 => .instr (.addImm (fieldX w) (fieldNn w))
  | 0x8#4 => decodeFamily8 (fieldN w) (fieldX w) (fieldY w)
  | 0x9#4 => if fieldN w = 0#4 then .instr (.sneReg (fieldX w) (fieldY w)) else .illegalOpcode
  | 0xA#4 => .instr (.ldI (fieldNnn w))
  | 0xB#4 => .instr (.jpV0 (fieldNnn w))
  | 0xC#4 => .instr (.rnd (fieldX w) (fieldNn w))
  | 0xD#4 => .instr (.drw (fieldX w) (fieldY w) (fieldN w))
  | 0xE#4 => decodeFamilyE (fieldNn w) (fieldX w)
  | 0xF#4 => decodeFamilyF (fieldNn w) (fieldX w)
  | _ => .illegalOpcode

/-- The word of two bytes in memory, the byte at the lower address first: big-endian (R84, 20_memory.md R64). -/
def assembleWord (hi lo : Byte) : Word := hi ++ lo

/-- The byte stored at the lower address (R84). -/
def highByte (w : Word) : Byte := w.extractLsb' 8 8

/-- The byte stored at the higher address (R84). -/
def lowByte (w : Word) : Byte := w.extractLsb' 0 8

/-- Decoding from two bytes in memory order. -/
def decodeBytes (hi lo : Byte) : Decoded := decode (assembleWord hi lo)

/-- The word of an instruction (R83, R94). The ignored y field of SHR and SHL is written 0, as R98 says of its
omitted operand. -/
def encode : Instr → Word
  | .cls => 0x00E0#16
  | .ret => 0x00EE#16
  | .jp nnn => 0x1#4 ++ nnn
  | .call nnn => 0x2#4 ++ nnn
  | .seImm x nn => 0x3#4 ++ x ++ nn
  | .sneImm x nn => 0x4#4 ++ x ++ nn
  | .seReg x y => 0x5#4 ++ x ++ y ++ 0x0#4
  | .ldImm x nn => 0x6#4 ++ x ++ nn
  | .addImm x nn => 0x7#4 ++ x ++ nn
  | .ldReg x y => 0x8#4 ++ x ++ y ++ 0x0#4
  | .orReg x y => 0x8#4 ++ x ++ y ++ 0x1#4
  | .andReg x y => 0x8#4 ++ x ++ y ++ 0x2#4
  | .xorReg x y => 0x8#4 ++ x ++ y ++ 0x3#4
  | .addReg x y => 0x8#4 ++ x ++ y ++ 0x4#4
  | .subReg x y => 0x8#4 ++ x ++ y ++ 0x5#4
  | .shr x => 0x8#4 ++ x ++ 0x06#8
  | .subn x y => 0x8#4 ++ x ++ y ++ 0x7#4
  | .shl x => 0x8#4 ++ x ++ 0x0E#8
  | .sneReg x y => 0x9#4 ++ x ++ y ++ 0x0#4
  | .ldI nnn => 0xA#4 ++ nnn
  | .jpV0 nnn => 0xB#4 ++ nnn
  | .rnd x nn => 0xC#4 ++ x ++ nn
  | .drw x y n => 0xD#4 ++ x ++ y ++ n
  | .skp x => 0xE#4 ++ x ++ 0x9E#8
  | .sknp x => 0xE#4 ++ x ++ 0xA1#8
  | .ldVxDt x => 0xF#4 ++ x ++ 0x07#8
  | .ldVxK x => 0xF#4 ++ x ++ 0x0A#8
  | .ldDtVx x => 0xF#4 ++ x ++ 0x15#8
  | .ldStVx x => 0xF#4 ++ x ++ 0x18#8
  | .addI x => 0xF#4 ++ x ++ 0x1E#8
  | .ldF x => 0xF#4 ++ x ++ 0x29#8
  | .ldB x => 0xF#4 ++ x ++ 0x33#8
  | .storeRegs x => 0xF#4 ++ x ++ 0x55#8
  | .loadRegs x => 0xF#4 ++ x ++ 0x65#8

/-- A row of the decode table: a word w is the row's instruction when `(w & mask) = match` (R94). -/
structure Row where
  /-- The row's mask column. -/
  mask : Word
  /-- The row's match column. -/
  value : Word
  deriving DecidableEq, Repr

/-- `(w & mask) = match` (R94). -/
def Row.matchesWord (r : Row) (w : Word) : Bool := w &&& r.mask == r.value

/-- The row of R94 that an instruction belongs to. -/
def rowOf : Instr → Row
  | .cls => ⟨0xFFFF, 0x00E0⟩
  | .ret => ⟨0xFFFF, 0x00EE⟩
  | .jp .. => ⟨0xF000, 0x1000⟩
  | .call .. => ⟨0xF000, 0x2000⟩
  | .seImm .. => ⟨0xF000, 0x3000⟩
  | .sneImm .. => ⟨0xF000, 0x4000⟩
  | .seReg .. => ⟨0xF00F, 0x5000⟩
  | .ldImm .. => ⟨0xF000, 0x6000⟩
  | .addImm .. => ⟨0xF000, 0x7000⟩
  | .ldReg .. => ⟨0xF00F, 0x8000⟩
  | .orReg .. => ⟨0xF00F, 0x8001⟩
  | .andReg .. => ⟨0xF00F, 0x8002⟩
  | .xorReg .. => ⟨0xF00F, 0x8003⟩
  | .addReg .. => ⟨0xF00F, 0x8004⟩
  | .subReg .. => ⟨0xF00F, 0x8005⟩
  | .shr .. => ⟨0xF00F, 0x8006⟩
  | .subn .. => ⟨0xF00F, 0x8007⟩
  | .shl .. => ⟨0xF00F, 0x800E⟩
  | .sneReg .. => ⟨0xF00F, 0x9000⟩
  | .ldI .. => ⟨0xF000, 0xA000⟩
  | .jpV0 .. => ⟨0xF000, 0xB000⟩
  | .rnd .. => ⟨0xF000, 0xC000⟩
  | .drw .. => ⟨0xF000, 0xD000⟩
  | .skp .. => ⟨0xF0FF, 0xE09E⟩
  | .sknp .. => ⟨0xF0FF, 0xE0A1⟩
  | .ldVxDt .. => ⟨0xF0FF, 0xF007⟩
  | .ldVxK .. => ⟨0xF0FF, 0xF00A⟩
  | .ldDtVx .. => ⟨0xF0FF, 0xF015⟩
  | .ldStVx .. => ⟨0xF0FF, 0xF018⟩
  | .addI .. => ⟨0xF0FF, 0xF01E⟩
  | .ldF .. => ⟨0xF0FF, 0xF029⟩
  | .ldB .. => ⟨0xF0FF, 0xF033⟩
  | .storeRegs .. => ⟨0xF0FF, 0xF055⟩
  | .loadRegs .. => ⟨0xF0FF, 0xF065⟩

/-- The 34 rows of R94, in the table's order. -/
def opcodeTable : List Row :=
  [⟨0xFFFF, 0x00E0⟩, ⟨0xFFFF, 0x00EE⟩, ⟨0xF000, 0x1000⟩, ⟨0xF000, 0x2000⟩, ⟨0xF000, 0x3000⟩, ⟨0xF000, 0x4000⟩,
   ⟨0xF00F, 0x5000⟩, ⟨0xF000, 0x6000⟩, ⟨0xF000, 0x7000⟩, ⟨0xF00F, 0x8000⟩, ⟨0xF00F, 0x8001⟩, ⟨0xF00F, 0x8002⟩,
   ⟨0xF00F, 0x8003⟩, ⟨0xF00F, 0x8004⟩, ⟨0xF00F, 0x8005⟩, ⟨0xF00F, 0x8006⟩, ⟨0xF00F, 0x8007⟩, ⟨0xF00F, 0x800E⟩,
   ⟨0xF00F, 0x9000⟩, ⟨0xF000, 0xA000⟩, ⟨0xF000, 0xB000⟩, ⟨0xF000, 0xC000⟩, ⟨0xF000, 0xD000⟩, ⟨0xF0FF, 0xE09E⟩,
   ⟨0xF0FF, 0xE0A1⟩, ⟨0xF0FF, 0xF007⟩, ⟨0xF0FF, 0xF00A⟩, ⟨0xF0FF, 0xF015⟩, ⟨0xF0FF, 0xF018⟩, ⟨0xF0FF, 0xF01E⟩,
   ⟨0xF0FF, 0xF029⟩, ⟨0xF0FF, 0xF033⟩, ⟨0xF0FF, 0xF055⟩, ⟨0xF0FF, 0xF065⟩]

/-- The instruction the decoder reads from the table's bit numbering: the low `nbits` bits of `w` (every higher bit
0), laid out as two bytes in memory order, decoded from those bytes (R80, R84). -/
def decodeTableWord (nbits w : Nat) : Option Instr :=
  let word : Word := BitVec.ofNat 16 (w % 2 ^ nbits)
  match decodeBytes (highByte word) (lowByte word) with
  | .instr i => some i
  | .illegalOpcode => none

end Sys2Proof
end

