-- ==== Sys2Proof/Machine/Flags.lean ====
section
/-! DEFINITION. The values VF receives as a flag (10_state.md R22; 41_alu.md R140, R145-R149). The collision flag of
`DXYN` is computed by the blitter (Blitter.lean). -/

namespace Sys2Proof.Machine

/-- The byte a flag is written as: 1 or 0 (R22). -/
def flagByte (f : Bool) : Byte := if f then 1 else 0

/-- The carry of `8XY4`: 1 exactly when the true sum exceeds 255 (R140, R145). -/
def carryOut (a b : Byte) : Bool := decide (a.toNat + b.toNat > 0xFF)

/-- The no-borrow flag of `minuend - subtrahend`: 1 exactly when minuend ≥ subtrahend (R140, R146, R148). -/
def noBorrow (minuend subtrahend : Byte) : Bool := decide (minuend.toNat ≥ subtrahend.toNat)

/-- The bit `8XY6` shifts out: bit 0 of the value before the shift (R147). -/
def shiftedOutRight (a : Byte) : Bool := a.getLsbD 0

/-- The bit `8XYE` shifts out: bit 7 of the value before the shift (R149). -/
def shiftedOutLeft (a : Byte) : Bool := a.getLsbD 7

end Sys2Proof.Machine
end

