-- ==== Sys2Proof/Config.lean ====
section
/-! DEFINITION. What is fixed for this hardware, and the values the spec leaves free.

The fixed sizes are 00_scope.md R5. The free values are the two inputs of R6 that are "free inputs under no
law": `rnd` (10_state.md R46) and `keys_down` (R45). Each is an opaque constant: no proof can see its value. -/

namespace Sys2Proof.Config

/-- `MEM_SIZE` (R5). -/
def memSize : Nat := 4096

/-- `FONT_BASE`, the address of the font's first byte (R5, R61). -/
def fontBase : Nat := 0x000

/-- `PROG_BASE`, the reset value of PC and the address of the ROM's first byte (R5, R61). -/
def progBase : Nat := 0x200

/-- `ROM_MAX`, the longest ROM that `reset_req` accepts (R5, R41). -/
def romMax : Nat := 3584

/-- `STACK_DEPTH` (R5). -/
def stackDepth : Nat := 16

/-- The byte on the input `rnd` at the k-th sample of the run: any byte (R46, R165; log 2). -/
opaque freeRnd : Nat → Byte

/-- The levels on the input `keys_down` at the k-th sample of the run: any 16 levels (R45, D34; log 2). -/
opaque freeKeys : Nat → BitVec 16

end Sys2Proof.Config
end

