-- ==== Sys2Proof/Machine/State.lean ====
section
/-! DEFINITION. The state of the core (10_state.md R20), its run state and fault record (R32, R33), the events of
its interface (R40), the reasons a step can stop, and the state after reset (70_reset_and_hazards.md R300). -/

namespace Sys2Proof.Machine

/-- Why the core entered `Faulted` (60_exceptions.md R270). `RomTooLarge` is no member: it is an answer on `reset_ack`
and "never in `Faulted`" (R274). -/
inductive Cause where
  /-- Decoding found no match (30_encoding.md R96). -/
  | illegalOpcode
  /-- `CALL` with SP = 16 (40_control_flow.md R122). -/
  | stackOverflow
  /-- `RET` with SP = 0 (R121). -/
  | stackUnderflow
  /-- The fetch found PC odd or above 0xFFE (30_encoding.md R85). -/
  | invariantPc
  /-- A block of bytes ends above 0xFFF (20_memory.md R66). -/
  | invariantAddress
  /-- A key index above 0xF (45_input.md R230, R231). -/
  | invariantKey
  deriving DecidableEq, Repr

/-- The run state (R32), with the fault record inside `faulted` (R33). -/
inductive RunState where
  /-- Before the first successful reset. -/
  | unreset
  /-- `step` executes one instruction. -/
  | running
  /-- An `FX0A` with destination x is suspended. -/
  | waitingKey (x : Nibble)
  /-- A fault was taken at PC = fpc on the word fop. -/
  | faulted (cause : Cause) (fpc fop : Word)
  deriving DecidableEq, Repr

/-- The answer to a `reset_req` (R41). -/
inductive ResetAck where
  /-- The reset was performed (R300). -/
  | ok
  /-- The ROM is longer than 3584 bytes and nothing else changed (R301). -/
  | romTooLarge
  deriving DecidableEq, Repr

/-- The input events of the core (R40). -/
inductive Event where
  /-- One fetch-decode-execute cycle is requested (R42). -/
  | step
  /-- One timer period (R43). -/
  | tick
  /-- Key k went from released to pressed (R44). -/
  | keyPress (k : Nibble)
  /-- A reset with the bytes of a ROM (R41). -/
  | resetReq (rom : List Byte)
  deriving DecidableEq, Repr

/-- The 4096 bytes of memory (R34, 20_memory.md R60) as plain data: the (address, byte) pairs whose byte differs
from the reset content of that address, addresses strictly rising (the form is `Memory.wf` of Memory.lean). -/
abbrev Memory := List Host.Cell

/-- The framebuffer `FB[0..255]` (R30). -/
abbrev Framebuffer := Vector Byte 256

/-- The state of the core. The first ten fields are the record of R20; `resetAck` and `drawEvents` hold the outputs
of R48, R49 that are not functions of the record; `font` is the parameter FONT of R6, which every event leaves as it is;
the last four are the MODEL's own: what the environment does next, as plain data (log 1, log 2). -/
structure State where
  /-- `mem[0..4095]`. -/
  mem : Memory
  /-- `V[0..15]` (R21). -/
  v : Vector Byte 16
  /-- The address register `I` (R23, R24). -/
  i : Word
  /-- The program counter `PC` (R25). -/
  pc : Word
  /-- The stack pointer `SP`, 0 to 16 inclusive (R26). -/
  sp : Fin 17
  /-- The return stack `S[0..15]` (R27). -/
  stack : Vector Word 16
  /-- The delay timer `DT` (R28). -/
  dt : Byte
  /-- The sound timer `ST` (R29). -/
  st : Byte
  /-- The framebuffer `FB[0..255]` (R30). -/
  fb : Framebuffer
  /-- The run state (R32). -/
  run : RunState
  /-- The answer to the last `reset_req` (R49), none before any request (log 5). -/
  resetAck : Option ResetAck
  /-- How many `draw_event` pulses have been emitted (R48, log 6). -/
  drawEvents : Nat
  /-- The parameter `FONT`, the 80 bytes that a reset loads at 0x000 (R6, R35; log 3). -/
  font : Font
  /-- The events the environment sends next, oldest first; when none is listed it sends `step` (R40, log 1). -/
  events : List Event
  /-- The next samples of `rnd`, where the environment has fixed them; a sample beyond them is free (R46, log 2). -/
  rndPlan : List Byte
  /-- The next samples of `keys_down`, where the environment has fixed them; a sample beyond them is free (R45, log 2). -/
  keysPlan : List (BitVec 16)
  /-- How many inputs have been sampled: the index of the next free value (log 2). -/
  samples : Nat
  deriving DecidableEq, Repr

/-- The reasons the MODEL stops with a fault. There is none: every fault of this core is a state it enters and in
which it goes on receiving events (60_exceptions.md R271, R273), so taking one is a next state (log 7). Nothing
raises this type; that is safe, and `step` answering a next state from every state is one of the statements. -/
inductive Fault
  deriving DecidableEq, Repr

/-- The reasons the model refuses. -/
inductive Refusal where
  /-- Raised only by an arm of `exec` whose instruction has no meaning yet (no arm is left so). Safe: nothing is
  claimed of such an instruction. -/
  | notModelled (mnemonic : String)
  deriving DecidableEq, Repr

/-- What running an instruction or a step answers. -/
abbrev Result := Host.Outcome State Fault Refusal

/-- The state right after a successful reset with an empty ROM (R300, D33; log 4) and the default FONT (R35; log 3):
memory as that reset leaves it (nothing listed), every register 0, PC at 0x200, the stack and the framebuffer clear, the core running. -/
def State.reset : State where
  mem := []
  v := Vector.replicate 16 0
  i := 0
  pc := 0x200
  sp := 0
  stack := Vector.replicate 16 0
  dt := 0
  st := 0
  fb := Vector.replicate 256 0
  run := .running
  resetAck := some .ok
  drawEvents := 0
  font := defaultFont
  events := []
  rndPlan := []
  keysPlan := []
  samples := 0

end Sys2Proof.Machine
end

