-- ==== Sys2Proof/Machine/Memory.lean ====
section
/-! DEFINITION. The 4096-byte memory (20_memory.md R60-R75): what an unlisted address reads as, reading and writing
one byte (R67), blocks of bytes in ascending order (R64), and the canonical form. -/

namespace Sys2Proof.Machine

/-- What an unlisted address reads as: what a reset with the default FONT and an empty ROM leaves there, that font at
0x000..0x04F and zero above (R61, R35). This only fixes which bytes the list names: a reset with another FONT lists every
byte in which that font differs (`romImage`, Events.lean; log 3). -/
def Memory.unlisted (a : Nat) : Byte := fontTable.getD a 0

/-- `MemRead(a, 1)` (00_scope.md R9, R67). The machine asks only for addresses 0x000..0xFFF (R66; log 16). -/
def Memory.read : Memory → Nat → Byte
  | [], a => Memory.unlisted a
  | (k, b) :: rest, a => if k = a then b else Memory.read rest a

/-- The cells that stand for byte `b` at address `a` in the canonical form: none where it is what an unlisted
address reads as. -/
def Memory.cell (a : Nat) (b : Byte) : Memory :=
  if b = Memory.unlisted a then [] else [(a, b)]

/-- `MemWrite(a, 1, b)` (R9, R67), keeping the canonical form. -/
def Memory.write : Memory → Nat → Byte → Memory
  | [], a, b => Memory.cell a b
  | (k, c) :: rest, a, b =>
    if a < k then Memory.cell a b ++ (k, c) :: rest
    else if a = k then Memory.cell a b ++ rest
    else (k, c) :: Memory.write rest a b

/-- The n bytes at a, a+1, …, in ascending order (R64). -/
def Memory.readBytes (m : Memory) (a n : Nat) : List Byte :=
  (List.range n).map fun k => m.read (a + k)

/-- The bytes written at a, a+1, …, in ascending order (R64). -/
def Memory.writeBytes : Memory → Nat → List Byte → Memory
  | m, _, [] => m
  | m, a, b :: rest => Memory.writeBytes (m.write a b) (a + 1) rest

/-- The canonical form: addresses strictly rising, each in 0x000..0xFFF (R60), and no entry equal to what an
unlisted address reads as. -/
def Memory.wf : Memory → Bool
  | [] => true
  | (k, b) :: rest =>
    decide (k < Config.memSize) && b != Memory.unlisted k && rest.all (fun c => decide (k < c.1)) && Memory.wf rest

/-- Whether the n bytes at address a all lie in 0x000..0xFFF: `a + n − 1 ≤ 0xFFF`, with no condition for n = 0
(R66, 44_display.md R206). -/
def inMemory (a n : Nat) : Bool := n == 0 || decide (a + n ≤ Config.memSize)

end Sys2Proof.Machine
end

