-- ==== Sys2Proof/Machine/Operands.lean ====
section
/-! DEFINITION. The operand forms of the instructions: a register V[x], the implicit V0, the registers V0..Vx, the
immediates, the address in I, and the sampled inputs (00_scope.md R7, R8; 30_encoding.md R82; 10_state.md R45, R46).
Every operand is read from the state as it stood before the instruction (R10). -/

namespace Sys2Proof.Machine

/-- VF, which is also the flag register (R22). -/
def regVF : Nibble := 0xF

/-- `V[x]` (R8, R21). -/
def State.reg (s : State) (x : Nibble) : Byte := s.v[x.toNat]'(x.isLt)

/-- The values of V0..Vx in order, the operands of `FX55` (R21, 43_memory_font.md R182). -/
def State.regsUpTo (s : State) (x : Nibble) : List Byte := s.v.toList.take (x.toNat + 1)

/-- The address in I, as a number (43_memory_font.md: register indirect through I). -/
def State.iAddr (s : State) : Nat := s.i.toNat

/-- The target of `JP V0, nnn`: `zext_16(nnn) + zext_16(V0)`, not wrapped (40_control_flow.md R124). -/
def State.jumpOffsetTarget (s : State) (nnn : Addr) : Word := zextAddr nnn + zextByte (s.reg 0)

/-- The sample of `rnd` that the next `CXNN` takes: the environment's next byte, or any byte (R46; log 2). -/
def State.rndSample (s : State) : Byte := s.rndPlan.headD (Config.freeRnd s.samples)

/-- The sample of `keys_down` that the next `EX9E` or `EXA1` takes: the environment's next levels, or any (R45; log 2). -/
def State.keysSample (s : State) : BitVec 16 := s.keysPlan.headD (Config.freeKeys s.samples)

/-- Whether key k is down in the sampled levels: bit k of `keys_down` (R45). -/
def keyDown (keys : BitVec 16) (k : Byte) : Bool := keys.getLsbD k.toNat

/-- The three decimal digits of a byte: hundreds, tens, ones (43_memory_font.md R181). -/
def bcdDigits (a : Byte) : List Byte :=
  [BitVec.ofNat 8 (a.toNat / 100), BitVec.ofNat 8 (a.toNat / 10 % 10), BitVec.ofNat 8 (a.toNat % 10)]

/-- The address of the glyph of a byte: `0x000 + zext_16(a) * 5`, all 8 bits used (43_memory_font.md R184). -/
def glyphAddress (a : Byte) : Word := zextByte a * 5

/-- The sum of `ADD I, Vx`: added in 16 bits, the low 12 bits kept (42_immediate.md R164, 90_conflicts.md C10). -/
def indexSum (i : Word) (a : Byte) : Word := (i + zextByte a) &&& 0x0FFF

end Sys2Proof.Machine
end

