-- ==== Sys2Proof/Machine/Ops.lean ====
section
/-! DEFINITION. The named operations over the registers, the stack, memory and the run state, and taking a fault
(00_scope.md R8-R11; 10_state.md R22-R33; 60_exceptions.md R271). -/

namespace Sys2Proof.Machine

/-- `V[x] <- b` (R8). -/
def State.setReg (s : State) (x : Nibble) (b : Byte) : State :=
  { s with v := s.v.set x.toNat b x.isLt }

/-- `V[0xF] <- f ? 1 : 0` (R22). -/
def State.setFlag (s : State) (f : Bool) : State := s.setReg regVF (flagByte f)

/-- `I <- w` (R23). -/
def State.setI (s : State) (w : Word) : State := { s with i := w }

/-- `PC <- w` (R25). -/
def State.setPc (s : State) (w : Word) : State := { s with pc := w }

/-- `PC <- PC + 2`, in 16 bits (R12, R25). -/
def State.advance (s : State) : State := { s with pc := s.pc + 2 }

/-- A skip: `PC + 4` when the condition holds, `PC + 2` otherwise (40_control_flow.md R129). -/
def State.skipIf (s : State) (c : Bool) : State := { s with pc := if c then s.pc + 4 else s.pc + 2 }

/-- `DT <- b` (R28). -/
def State.setDt (s : State) (b : Byte) : State := { s with dt := b }

/-- `ST <- b` (R29). -/
def State.setSt (s : State) (b : Byte) : State := { s with st := b }

/-- `FB <- f` (R30). -/
def State.setFb (s : State) (f : Framebuffer) : State := { s with fb := f }

/-- `run <- r` (R32). -/
def State.setRun (s : State) (r : RunState) : State := { s with run := r }

/-- One `draw_event` pulse is emitted (R48). -/
def State.emitDraw (s : State) : State := { s with drawEvents := s.drawEvents + 1 }

/-- The state after `rnd` has been sampled once (R46; log 2). -/
def State.afterRndSample (s : State) : State :=
  { s with rndPlan := s.rndPlan.tail, samples := s.samples + 1 }

/-- The state after `keys_down` has been sampled once (R45; log 2). -/
def State.afterKeysSample (s : State) : State :=
  { s with keysPlan := s.keysPlan.tail, samples := s.samples + 1 }

/-- Push a return address: `S[SP] <- w; SP <- SP + 1`, or nothing when SP = 16 (R27, 40_control_flow.md R122). -/
def State.push (s : State) (w : Word) : Option State :=
  if h : s.sp.val < 16 then
    some { s with stack := s.stack.set s.sp.val w h, sp := ⟨s.sp.val + 1, by omega⟩ }
  else none

/-- Pop a return address: `SP <- SP - 1`, with `S[SP]` of the new SP, or nothing when SP = 0. The slot keeps its
value (R27, R121). -/
def State.pop (s : State) : Option (Word × State) :=
  if h : s.sp.val ≠ 0 then
    some (s.stack[s.sp.val - 1]'(by omega), { s with sp := ⟨s.sp.val - 1, by omega⟩ })
  else none

/-- The n bytes at address a, or nothing when one of them would lie above 0xFFF (20_memory.md R66). -/
def State.loadBytes (s : State) (a n : Nat) : Option (List Byte) :=
  if inMemory a n then some (s.mem.readBytes a n) else none

/-- Store bytes from address a upwards, or nothing when one of them would lie above 0xFFF: the whole range is
checked before any byte is written (R66). -/
def State.storeBytes (s : State) (a : Nat) (bytes : List Byte) : Option State :=
  if inMemory a bytes.length then some { s with mem := s.mem.writeBytes a bytes } else none

/-- A register file with `V[k], V[k+1], … <- bytes`, in ascending order. -/
def regsFrom : Vector Byte 16 → Nat → List Byte → Vector Byte 16
  | v, _, [] => v
  | v, k, b :: rest => regsFrom (v.setIfInBounds k b) (k + 1) rest

/-- `V[0], V[1], … <- bytes`, the register load of `FX65` (43_memory_font.md R183). -/
def State.setRegs (s : State) (bytes : List Byte) : State := { s with v := regsFrom s.v 0 bytes }

/-- The state a fault leaves: `run <- Faulted(code, PC, w)` and nothing else (60_exceptions.md R271). -/
def State.faultedAt (s : State) (c : Cause) (fop : Word) : State :=
  { s with run := .faulted c s.pc fop }

/-- Taking a fault (R271, 00_scope.md R11): the one operation every fault goes through. It ends the step in the next
state `Faulted`, with the PC of the faulting instruction and the word `fop` recorded. The core has no return from a
fault: only an accepted `reset_req` leaves `Faulted` (R272). -/
def State.raise (s : State) (c : Cause) (fop : Word) : Result := .next (s.faultedAt c fop)

/-- Run the rest of an instruction on what a checked operation gives, or raise the fault the check stands for
(00_scope.md R10: the check comes before every assignment). -/
def State.orRaise {α : Type} (s : State) (r : Option α) (c : Cause) (fop : Word) (rest : α → Result) : Result :=
  match r with
  | some a => rest a
  | none => s.raise c fop

/-- Whether the core fetches at this PC: even and at most 0xFFE (30_encoding.md R85, 20_memory.md R65). -/
def fetchable (pc : Word) : Bool := pc.toNat % 2 == 0 && decide (pc.toNat ≤ 0xFFE)

/-- `Fetch16(PC)`: two bytes, big-endian (30_encoding.md R84). It changes no state. -/
def State.fetch (s : State) : Word :=
  assembleWord (s.mem.read s.pc.toNat) (s.mem.read (s.pc.toNat + 1))

end Sys2Proof.Machine
end

