-- ==== Sys2Proof/Machine/Alu.lean ====
section
/-! DEFINITION. Register ALU operations, family 8 (41_alu.md R140-R149). Operands are read first (00_scope.md R10);
where a flag is written it is written after the result, so with x = F VF holds the flag (R140). -/

namespace Sys2Proof.Machine

/-- A result without a flag: `V[x] <- r; PC <- PC + 2` (R141-R144). -/
def State.finish (s : State) (x : Nibble) (r : Byte) : Result := .next (s.setReg x r).advance

/-- A result, then the flag: `V[x] <- r; V[0xF] <- f; PC <- PC + 2` (R140). -/
def State.finishFlag (s : State) (x : Nibble) (r : Byte) (f : Bool) : Result :=
  .next ((s.setReg x r).setFlag f).advance

/-- `8XY0` LD Vx, Vy (R141). -/
def execLdReg (x y : Nibble) (s : State) : Result := s.finish x (s.reg y)

/-- `8XY1` OR Vx, Vy (R142). -/
def execOrReg (x y : Nibble) (s : State) : Result := s.finish x (s.reg x ||| s.reg y)

/-- `8XY2` AND Vx, Vy (R143). -/
def execAndReg (x y : Nibble) (s : State) : Result := s.finish x (s.reg x &&& s.reg y)

/-- `8XY3` XOR Vx, Vy (R144). -/
def execXorReg (x y : Nibble) (s : State) : Result := s.finish x (s.reg x ^^^ s.reg y)

/-- `8XY4` ADD Vx, Vy, with the carry in VF (R145). -/
def execAddReg (x y : Nibble) (s : State) : Result :=
  s.finishFlag x (s.reg x + s.reg y) (carryOut (s.reg x) (s.reg y))

/-- `8XY5` SUB Vx, Vy: `V[x] - V[y]`, with no-borrow in VF (R146). -/
def execSubReg (x y : Nibble) (s : State) : Result :=
  s.finishFlag x (s.reg x - s.reg y) (noBorrow (s.reg x) (s.reg y))

/-- `8XY6` SHR Vx, with the bit shifted out in VF (R147). -/
def execShr (x : Nibble) (s : State) : Result :=
  s.finishFlag x (s.reg x >>> 1) (shiftedOutRight (s.reg x))

/-- `8XY7` SUBN Vx, Vy: `V[y] - V[x]`, with no-borrow in VF (R148). -/
def execSubn (x y : Nibble) (s : State) : Result :=
  s.finishFlag x (s.reg y - s.reg x) (noBorrow (s.reg y) (s.reg x))

/-- `8XYE` SHL Vx, with the bit shifted out in VF (R149). -/
def execShl (x : Nibble) (s : State) : Result :=
  s.finishFlag x (s.reg x <<< 1) (shiftedOutLeft (s.reg x))

end Sys2Proof.Machine
end

