-- ==== Sys2Proof/Machine/ControlFlow.lean ====
section
/-! DEFINITION. Control flow (40_control_flow.md R120-R129): RET, CALL, JP, JP V0 and the four compare skips. -/

namespace Sys2Proof.Machine

/-- `00EE` RET: `StackUnderflow` when SP = 0, else pop into PC (R121). -/
def execRet (s : State) : Result :=
  s.orRaise s.pop .stackUnderflow (encode .ret) fun p => .next (p.2.setPc p.1)

/-- `1NNN` JP nnn: `PC <- zext_16(nnn)` (R123). -/
def execJp (nnn : Addr) (s : State) : Result := .next (s.setPc (zextAddr nnn))

/-- `2NNN` CALL nnn: `StackOverflow` when SP = 16, else push `PC + 2` and jump (R122). -/
def execCall (nnn : Addr) (s : State) : Result :=
  s.orRaise (s.push (s.pc + 2)) .stackOverflow (encode (.call nnn)) fun t => .next (t.setPc (zextAddr nnn))

/-- `BNNN` JP V0, nnn: `PC <- zext_16(nnn) + zext_16(V[0])` (R124). -/
def execJpV0 (nnn : Addr) (s : State) : Result := .next (s.setPc (s.jumpOffsetTarget nnn))

/-- `3XNN` SE Vx, nn (R125). -/
def execSeImm (x : Nibble) (nn : Byte) (s : State) : Result := .next (s.skipIf (s.reg x == nn))

/-- `4XNN` SNE Vx, nn (R126). -/
def execSneImm (x : Nibble) (nn : Byte) (s : State) : Result := .next (s.skipIf (s.reg x != nn))

/-- `5XY0` SE Vx, Vy (R127). -/
def execSeReg (x y : Nibble) (s : State) : Result := .next (s.skipIf (s.reg x == s.reg y))

/-- `9XY0` SNE Vx, Vy (R128). -/
def execSneReg (x y : Nibble) (s : State) : Result := .next (s.skipIf (s.reg x != s.reg y))

end Sys2Proof.Machine
end

