-- ==== Sys2Proof/Machine/Blitter.lean ====
section
/-! DEFINITION. The sprite XOR-blitter and its collision detector (44_display.md R200-R203), and the pixel view of the
framebuffer (10_state.md R31). -/

namespace Sys2Proof.Machine

/-- The index of byte b of row r in FB: `row*8 + b`, the row taken mod 32 and the byte mod 8 (R31, R200). -/
def fbIndex (row b : Nat) : Fin 256 := ⟨row % 32 * 8 + b % 8, by omega⟩

/-- Pixel (column c, row r): bit `7 - (c mod 8)` of byte `FB[r*8 + c div 8]` (R31). -/
def pixel (fb : Framebuffer) (c r : Nat) : Bool := (fb[fbIndex r (c / 8)]).getLsbD (7 - c % 8)

/-- XOR bits into one byte of FB; the flag says whether a lit pixel was cleared, `FB[i] & bits ≠ 0` (R200, R201). -/
def xorByte (fb : Framebuffer) (i : Fin 256) (bits : Byte) : Framebuffer × Bool :=
  (fb.set i.val (fb[i] ^^^ bits) i.isLt, fb[i] &&& bits != 0)

/-- One sprite row s at columns x0.. of row y (R200): the high `8-off` bits go to byte `x0 div 8` of the row, the low
`off` bits to the next byte of the SAME row. With off = 0 there is no second byte. -/
def drawRow (fb : Framebuffer) (s : Byte) (x0 y : Nat) : Framebuffer × Bool :=
  let off := x0 % 8
  let first := xorByte fb (fbIndex y (x0 / 8)) (s >>> off)
  if off = 0 then first
  else
    let second := xorByte first.1 (fbIndex y (x0 / 8 + 1)) (s <<< (8 - off))
    (second.1, first.2 || second.2)

/-- `draw(rows, x0, y0)`: the rows in order, top first, row r at screen row `(y0 + r) mod 32`; the flag is true when
at least one row collided (R200-R202). -/
def draw : Framebuffer → List Byte → Nat → Nat → Framebuffer × Bool
  | fb, [], _, _ => (fb, false)
  | fb, s :: rest, x0, y0 =>
    let here := drawRow fb s x0 y0
    let below := draw here.1 rest x0 (y0 + 1)
    (below.1, here.2 || below.2)

/-- `clear()`: every byte of FB is 0 (R203). -/
def clearFb : Framebuffer := Vector.replicate 256 0

end Sys2Proof.Machine
end

