-- ==== Sys2Proof/Machine/Display.lean ====
section
/-! DEFINITION. The display instructions (44_display.md R205-R208). -/

namespace Sys2Proof.Machine

/-- `DXYN` DRW Vx, Vy, n: the n bytes at I are drawn at (V[x] mod 64, V[y] mod 32), VF gets the collision and one
`draw_event` is emitted (R205). With n = 0 no memory is read and nothing is checked (R206); otherwise a range that
ends above 0xFFF raises the address fault (R207). -/
def execDrw (x y n : Nibble) (s : State) : Result :=
  s.orRaise (s.loadBytes s.iAddr n.toNat) .invariantAddress (encode (.drw x y n)) fun rows =>
    let d := draw s.fb rows ((s.reg x).toNat % 64) ((s.reg y).toNat % 32)
    .next ((s.setFb d.1).setFlag d.2).advance.emitDraw

/-- `00E0` CLS: `clear()`, and one `draw_event` is emitted (R208). -/
def execCls (s : State) : Result := .next (s.setFb clearFb).advance.emitDraw

end Sys2Proof.Machine
end

