-- ==== Sys2Proof/Machine/Immediate.lean ====
section
/-! DEFINITION. Immediate operations (42_immediate.md R160-R165). None of them writes VF except as the destination
when x = F (R160). -/

namespace Sys2Proof.Machine

/-- `6XNN` LD Vx, nn (R161). -/
def execLdImm (x : Nibble) (nn : Byte) (s : State) : Result := s.finish x nn

/-- `7XNN` ADD Vx, nn, without a flag (R162). -/
def execAddImm (x : Nibble) (nn : Byte) (s : State) : Result := s.finish x (s.reg x + nn)

/-- `ANNN` LD I, nnn (R163). -/
def execLdI (nnn : Addr) (s : State) : Result := .next (s.setI (zextAddr nnn)).advance

/-- `FX1E` ADD I, Vx: `I <- (I + zext_16(V[x])) & 0x0FFF`, no flag (R164). -/
def execAddI (x : Nibble) (s : State) : Result := .next (s.setI (indexSum s.i (s.reg x))).advance

/-- `CXNN` RND Vx, nn: `V[x] <- rnd & nn`, one sample of the input (R165). -/
def execRnd (x : Nibble) (nn : Byte) (s : State) : Result :=
  s.afterRndSample.finish x (s.rndSample &&& nn)

end Sys2Proof.Machine
end

