-- ==== Sys2Proof/Machine/Input.lean ====
section
/-! DEFINITION. Key input (45_input.md R230-R232). The second half of `FX0A` is the event `key_press` (Events.lean). -/

namespace Sys2Proof.Machine

/-- A key skip: `InvariantViolation_KEY` when the key index is above 0xF, else one sample of `keys_down` and a skip
when the key's level is `level` (R230, R231). -/
def State.keySkip (s : State) (x : Nibble) (level : Bool) (fop : Word) : Result :=
  if (s.reg x).toNat > 0xF then s.raise .invariantKey fop
  else .next (s.afterKeysSample.skipIf (keyDown s.keysSample (s.reg x) == level))

/-- `EX9E` SKP Vx: skip if key V[x] is pressed (R230). -/
def execSkp (x : Nibble) (s : State) : Result := s.keySkip x true (encode (.skp x))

/-- `EXA1` SKNP Vx: skip if key V[x] is not pressed (R231). -/
def execSknp (x : Nibble) (s : State) : Result := s.keySkip x false (encode (.sknp x))

/-- `FX0A` LD Vx, K, the half that a step executes: the core waits, PC unchanged (R232). -/
def execLdVxK (x : Nibble) (s : State) : Result := .next (s.setRun (.waitingKey x))

end Sys2Proof.Machine
end

