-- ==== Sys2Proof/Machine/MemoryFont.lean ====
section
/-! DEFINITION. Memory block operations and font lookup (43_memory_font.md R180-R184). The whole range is checked
before any access (R180); I is unchanged by all but `FX29` (R181-R183). -/

namespace Sys2Proof.Machine

/-- `FX33` LD B, Vx: the three decimal digits at I, I+1, I+2 (R181). -/
def execLdB (x : Nibble) (s : State) : Result :=
  s.orRaise (s.storeBytes s.iAddr (bcdDigits (s.reg x))) .invariantAddress (encode (.ldB x)) fun t => .next t.advance

/-- `FX55` LD [I], Vx: V0..Vx at I..I+x (R182). -/
def execStoreRegs (x : Nibble) (s : State) : Result :=
  s.orRaise (s.storeBytes s.iAddr (s.regsUpTo x)) .invariantAddress (encode (.storeRegs x)) fun t => .next t.advance

/-- `FX65` LD Vx, [I]: V0..Vx from I..I+x (R183). -/
def execLoadRegs (x : Nibble) (s : State) : Result :=
  s.orRaise (s.loadBytes s.iAddr (x.toNat + 1)) .invariantAddress (encode (.loadRegs x)) fun bytes =>
    .next (s.setRegs bytes).advance

/-- `FX29` LD F, Vx: `I <- 0x000 + zext_16(V[x]) * 5` (R184). It reads no memory. -/
def execLdF (x : Nibble) (s : State) : Result := .next (s.setI (glyphAddress (s.reg x))).advance

end Sys2Proof.Machine
end

