-- ==== Sys2Proof/Machine/Timers.lean ====
section
/-! DEFINITION. The timer instructions (46_timers.md R252-R254). The countdown engines are in Events.lean. -/

namespace Sys2Proof.Machine

/-- `FX07` LD Vx, DT (R252). -/
def execLdVxDt (x : Nibble) (s : State) : Result := s.finish x s.dt

/-- `FX15` LD DT, Vx (R253). -/
def execLdDtVx (x : Nibble) (s : State) : Result := .next (s.setDt (s.reg x)).advance

/-- `FX18` LD ST, Vx (R254). -/
def execLdStVx (x : Nibble) (s : State) : Result := .next (s.setSt (s.reg x)).advance

end Sys2Proof.Machine
end

