-- ==== Sys2Proof/Machine/Events.lean ====
section
/-! DEFINITION. The four input events, each one atomic transition (10_state.md R40-R44): `step` (30_encoding.md R86),
`tick` (46_timers.md R250, R251), `key_press` (45_input.md R233) and `reset_req` (70_reset_and_hazards.md R300, R301). -/

namespace Sys2Proof.Machine

/-- One fetch-decode-execute cycle of a running core (R86): the PC check (R85), the fetch (R84), decoding, execution. -/
def fetchExecute (s : State) : Result :=
  if fetchable s.pc then
    match decode s.fetch with
    | .instr i => exec i s
    | .illegalOpcode => s.raise .illegalOpcode s.fetch
  else s.raise .invariantPc 0

/-- The event `step`: a cycle when the core is running, no change in any other run state (R42). -/
def stepEvent (s : State) : Result :=
  match s.run with
  | .running => fetchExecute s
  | .unreset => .next s
  | .waitingKey _ => .next s
  | .faulted _ _ _ => .next s

/-- A counter decremented if it is above 0 (R250). -/
def countDown (b : Byte) : Byte := if b.toNat > 0 then b - 1 else b

/-- The event `tick`: both timers count down in every run state but `Unreset` (R250, R251). -/
def tick (s : State) : State :=
  match s.run with
  | .unreset => s
  | .running => { s with dt := countDown s.dt, st := countDown s.st }
  | .waitingKey _ => { s with dt := countDown s.dt, st := countDown s.st }
  | .faulted _ _ _ => { s with dt := countDown s.dt, st := countDown s.st }

/-- The event `key_press(k)`: it completes a suspended `FX0A` and changes nothing in any other run state (R233, R44). -/
def keyPress (k : Nibble) (s : State) : State :=
  match s.run with
  | .waitingKey x => ((s.setReg x (k.setWidth 8)).advance).setRun .running
  | .unreset => s
  | .running => s
  | .faulted _ _ _ => s

/-- The memory after a reset: the FONT given, zeros, and the ROM's bytes in order from 0x200 (R300, 20_memory.md R61). -/
def romImage (font : Font) (rom : List Byte) : Memory :=
  Memory.writeBytes (Memory.writeBytes [] Config.fontBase font.toList) Config.progBase rom

/-- The event `reset_req(rom)`: a ROM of at most 3584 bytes resets every field of the record and answers OK (R300); a
longer one is refused with `RomTooLarge` and changes nothing else (R301). The font loaded is the parameter FONT, `s.font`
(R6, R35). What belongs to the environment (`events`,
the input plans) and the count of pulses already emitted are no part of the record and stay (log 20). -/
def resetReq (rom : List Byte) (s : State) : State :=
  if rom.length ≤ Config.romMax then
    { State.reset with
      mem := romImage s.font rom
      drawEvents := s.drawEvents
      font := s.font
      events := s.events
      rndPlan := s.rndPlan
      keysPlan := s.keysPlan
      samples := s.samples }
  else { s with resetAck := some .romTooLarge }

/-- Apply one event (R40). -/
def deliver (e : Event) (s : State) : Result :=
  match e with
  | .step => stepEvent s
  | .tick => .next (tick s)
  | .keyPress k => .next (keyPress k s)
  | .resetReq rom => .next (resetReq rom s)

/-- The next event: the first that the environment has listed, or `step` when it has listed none (log 1). -/
def State.nextEvent (s : State) : Event := s.events.headD .step

/-- The state once its next event has been taken off the list. -/
def State.takeEvent (s : State) : State := { s with events := s.events.tail }

/-- Deliver the next event to the core (R40, R277). -/
def deliverNext (s : State) : Result := deliver s.nextEvent s.takeEvent

/-- The events of a run in which the very next one is a `step`: a `step` is put in front unless one is there. -/
def stepFirst : List Event → List Event
  | [] => []
  | .step :: rest => .step :: rest
  | .tick :: rest => .step :: .tick :: rest
  | .keyPress k :: rest => .step :: .keyPress k :: rest
  | .resetReq rom :: rest => .step :: .resetReq rom :: rest

/-- Where `withFetchWord` places its word: at PC, or at 0x200 when the core cannot fetch at PC (log 18). -/
def fetchPlace (pc : Word) : Word := if fetchable pc then pc else 0x200

/-- A running state with the word w in memory at PC and a `step` as its next event. -/
def State.placeWord (s : State) (w : Word) : State :=
  let p := fetchPlace s.pc
  { s with
    mem := (s.mem.write p.toNat (highByte w)).write (p.toNat + 1) (lowByte w)
    pc := p
    run := .running
    events := stepFirst s.events }

end Sys2Proof.Machine
end

