-- ==== Sys2Proof/Machine/Step.lean ====
section
/-! DEFINITION. One step of the machine: the next event is delivered to the core (10_state.md R40). When the next
event is `step`, that is one fetch-decode-execute cycle (30_encoding.md R86). -/

namespace Sys2Proof.Machine

/-- Deliver the next event (log 1). -/
def step (s : State) : Host.Outcome State Fault Refusal := deliverNext s

/-- The state with the instruction word `w` (its low `nbits` bits) stored where `step` fetches its next instruction,
the core running and the next event a `step` (log 18). -/
def State.withFetchWord (s : State) (nbits w : Nat) : State :=
  s.placeWord (BitVec.ofNat 16 (w % 2 ^ nbits))

end Sys2Proof.Machine
end

