-- ==== Sys2Proof/Machine/Outputs.lean ====
section
/-! DEFINITION. The outputs of the core between events that are functions of its state (10_state.md R47, R49). The
outputs `reset_ack` and `draw_event` are the fields `resetAck` and `drawEvents` of State. -/

namespace Sys2Proof.Machine

/-- `fb_snapshot`: a copy of FB (R47, 44_display.md R204). -/
def State.fbSnapshot (s : State) : Framebuffer := s.fb

/-- `delay_out = DT` (R49). -/
def State.delayOut (s : State) : Byte := s.dt

/-- `sound_on = (ST ≠ 0)` (R49, 46_timers.md R256). -/
def State.soundOn (s : State) : Bool := s.st != 0

/-- `waiting_key` (R49). -/
def State.waitingKeyOut (s : State) : Bool :=
  match s.run with
  | .waitingKey _ => true
  | .unreset => false
  | .running => false
  | .faulted _ _ _ => false

/-- The number of a fault on `fault_out` (60_exceptions.md R274). -/
def Cause.code : Cause → BitVec 3
  | .illegalOpcode => 1
  | .stackOverflow => 2
  | .stackUnderflow => 3
  | .invariantPc => 5
  | .invariantAddress => 6
  | .invariantKey => 7

/-- `fault_out.code`: the code while the core is `Faulted`, 0 otherwise (R49, R274). -/
def State.faultCode (s : State) : BitVec 3 :=
  match s.run with
  | .faulted c _ _ => c.code
  | .unreset => 0
  | .running => 0
  | .waitingKey _ => 0

/-- `fault_out`'s (fpc, fop) while the core is `Faulted`; R49 gives them no value otherwise (log 14). -/
def State.faultRecord (s : State) : Option (Word × Word) :=
  match s.run with
  | .faulted _ fpc fop => some (fpc, fop)
  | .unreset => none
  | .running => none
  | .waitingKey _ => none

/-- The number of an answer on `reset_ack` where it is a fault code: `RomTooLarge` is 4, and 0 stands for none (R274). -/
def ResetAck.code : ResetAck → BitVec 3
  | .ok => 0
  | .romTooLarge => 4

/-- A sound state transition: an event after which `sound_on` differs from before it (R49). -/
def soundTransition (before after : State) : Bool := before.soundOn != after.soundOn

end Sys2Proof.Machine
end

