-- ==== Sys2Proof/Safety.lean ====
section
/-! DEFINITION. The terms that claims are stated in: the parts of the state and what leaves one unchanged (frames), the
condition of each fault (60_exceptions.md R270), and the invariant of every state after a successful reset
(10_state.md R36). -/

namespace Sys2Proof.Machine

/-- The parts of the state a frame speaks of: each general register, and each other field of State. -/
inductive Part where
  | reg (r : Nibble)
  | i
  | pc
  | sp
  | stack
  | dt
  | st
  | fb
  | run
  | mem
  | resetAck
  | drawEvents
  | font
  | events
  | rndPlan
  | keysPlan
  | samples
  deriving DecidableEq, Repr

/-- The part is the same in both states. Memory is compared through the read of one byte, at every address. -/
def Part.kept : Part → State → State → Prop
  | .reg r, s, t => t.reg r = s.reg r
  | .i, s, t => t.i = s.i
  | .pc, s, t => t.pc = s.pc
  | .sp, s, t => t.sp = s.sp
  | .stack, s, t => t.stack = s.stack
  | .dt, s, t => t.dt = s.dt
  | .st, s, t => t.st = s.st
  | .fb, s, t => t.fb = s.fb
  | .run, s, t => t.run = s.run
  | .mem, s, t => ∀ a, t.mem.read a = s.mem.read a
  | .resetAck, s, t => t.resetAck = s.resetAck
  | .drawEvents, s, t => t.drawEvents = s.drawEvents
  | .font, s, t => t.font = s.font
  | .events, s, t => t.events = s.events
  | .rndPlan, s, t => t.rndPlan = s.rndPlan
  | .keysPlan, s, t => t.keysPlan = s.keysPlan
  | .samples, s, t => t.samples = s.samples

/-- From s to t, no part outside the list changes. -/
def ChangesOnly (changed : List Part) (s t : State) : Prop := ∀ p, p ∉ changed → p.kept s t

/-- The condition under which a `step` of a running core ends in the fault (R270), with the checks in their order
(R275): the PC, then decoding, then the instruction's own. -/
def FaultCondition : Cause → State → Prop
  | .invariantPc, s => fetchable s.pc = false
  | .illegalOpcode, s => fetchable s.pc = true ∧ decode s.fetch = .illegalOpcode
  | .stackOverflow, s =>
    fetchable s.pc = true ∧ s.sp.val = 16 ∧ ∃ nnn, decode s.fetch = .instr (.call nnn)
  | .stackUnderflow, s => fetchable s.pc = true ∧ s.sp.val = 0 ∧ decode s.fetch = .instr .ret
  | .invariantAddress, s =>
    fetchable s.pc = true ∧
      ((∃ x, decode s.fetch = .instr (.ldB x) ∧ s.i.toNat + 2 > 0xFFF) ∨
        (∃ x, decode s.fetch = .instr (.storeRegs x) ∧ s.i.toNat + x.toNat > 0xFFF) ∨
        (∃ x, decode s.fetch = .instr (.loadRegs x) ∧ s.i.toNat + x.toNat > 0xFFF) ∨
        (∃ x y n, decode s.fetch = .instr (.drw x y n) ∧ n.toNat ≥ 1 ∧ s.i.toNat + n.toNat - 1 > 0xFFF))
  | .invariantKey, s =>
    fetchable s.pc = true ∧
      ∃ x, (decode s.fetch = .instr (.skp x) ∨ decode s.fetch = .instr (.sknp x)) ∧ (s.reg x).toNat > 0xF

/-- The `fop` that R270 records: 0 for the PC fault, the fetched word for every other. -/
def recordedWord : Cause → State → Word
  | .invariantPc, _ => 0
  | .illegalOpcode, s => s.fetch
  | .stackOverflow, s => s.fetch
  | .stackUnderflow, s => s.fetch
  | .invariantAddress, s => s.fetch
  | .invariantKey, s => s.fetch

/-- What the run state says is true of the rest of the state: a waiting core stands at the `FX0A` that made it wait
(45_input.md R232), a faulted core stands at the fault its record describes (60_exceptions.md R271, R273). -/
def State.RunCoherent (s : State) : Prop :=
  match s.run with
  | .unreset => True
  | .running => True
  | .waitingKey x => fetchable s.pc = true ∧ decode s.fetch = .instr (.ldVxK x)
  | .faulted c fpc fop => FaultCondition c s ∧ fpc = s.pc ∧ fop = recordedWord c s

/-- The invariant of every state outside `Unreset` (R36): memory in its canonical form, I at most 0xFFF, the run state
coherent. The other clauses of R36 (SP at most 16, every byte in 0..255, no negative timer) are in the types. -/
def State.Inv (s : State) : Prop :=
  s.run ≠ .unreset → s.mem.wf = true ∧ s.i.toNat ≤ 0xFFF ∧ s.RunCoherent

/-- Whether a sprite drawn at (x0, y0) has a 1 at pixel (c, r): the sprite's row `(r − y0) mod 32` and column
`(c − x0) mod 64`, most significant bit leftmost, wrapping on both axes (44_display.md R200, R202). -/
def spriteBit (rows : List Byte) (x0 y0 c r : Nat) : Bool :=
  let down := (r + 32 - y0 % 32) % 32
  let across := (c + 64 - x0 % 64) % 64
  decide (down < rows.length) && decide (across < 8) && (rows.getD down 0).getLsbD (7 - across)

/-- Some lit pixel of fb lies under a 1 of the sprite: XOR clears it (R201). -/
def SpriteHits (fb : Framebuffer) (rows : List Byte) (x0 y0 : Nat) : Prop :=
  ∃ c < 64, ∃ r < 32, pixel fb c r = true ∧ spriteBit rows x0 y0 c r = true

/-- Every general register, as parts. -/
def allRegs : List Part := (List.range 16).map fun k => .reg (BitVec.ofNat 4 k)

/-- The general registers an instruction may write when it executes: its destination, and VF where the rule writes a
flag (10_state.md R22). `FX0A` writes its destination only when the wait ends (45_input.md R233). -/
def destinations : Instr → List Nibble
  | .cls => []
  | .ret => []
  | .jp _ => []
  | .call _ => []
  | .seImm _ _ => []
  | .sneImm _ _ => []
  | .seReg _ _ => []
  | .ldImm x _ => [x]
  | .addImm x _ => [x]
  | .ldReg x _ => [x]
  | .orReg x _ => [x]
  | .andReg x _ => [x]
  | .xorReg x _ => [x]
  | .addReg x _ => [x, 0xF]
  | .subReg x _ => [x, 0xF]
  | .shr x => [x, 0xF]
  | .subn x _ => [x, 0xF]
  | .shl x => [x, 0xF]
  | .sneReg _ _ => []
  | .ldI _ => []
  | .jpV0 _ => []
  | .rnd x _ => [x]
  | .drw _ _ _ => [0xF]
  | .skp _ => []
  | .sknp _ => []
  | .ldVxDt x => [x]
  | .ldVxK _ => []
  | .ldDtVx _ => []
  | .ldStVx _ => []
  | .addI _ => []
  | .ldF _ => []
  | .ldB _ => []
  | .storeRegs _ => []
  | .loadRegs x => (List.range (x.toNat + 1)).map (BitVec.ofNat 4)

/-- The instructions whose rule gives PC another value than `PC + 2` (30_encoding.md R87): the jumps, call and return,
the six skips, and `FX0A` entering its wait. -/
def setsPc : Instr → Bool
  | .ret => true
  | .jp _ => true
  | .call _ => true
  | .jpV0 _ => true
  | .seImm _ _ => true
  | .sneImm _ _ => true
  | .seReg _ _ => true
  | .sneReg _ _ => true
  | .skp _ => true
  | .sknp _ => true
  | .ldVxK _ => true
  | .cls => false
  | .ldImm _ _ => false
  | .addImm _ _ => false
  | .ldReg _ _ => false
  | .orReg _ _ => false
  | .andReg _ _ => false
  | .xorReg _ _ => false
  | .addReg _ _ => false
  | .subReg _ _ => false
  | .shr _ => false
  | .subn _ _ => false
  | .shl _ => false
  | .ldI _ => false
  | .rnd _ _ => false
  | .drw _ _ _ => false
  | .ldVxDt _ => false
  | .ldDtVx _ => false
  | .ldStVx _ => false
  | .addI _ => false
  | .ldF _ => false
  | .ldB _ => false
  | .storeRegs _ => false
  | .loadRegs _ => false

end Sys2Proof.Machine
end

