-- ==== Sys2Proof/Certificates/Slice0/Obligations.lean ====
section
/-! DEFINITION. The statements about the model, for the provers. Each docstring names the rules of spec/ it formalises.
Frames are `ChangesOnly` (Safety.lean): no part outside the list changes. The clauses `decode … = .instr …` state the
Encoding line of each rule; the opcode map behind them is the spec's from general knowledge (R94, GK8; log 11), but for
`00E0` and `00EE`. `D<n>` names a decision of spec/92_eei_decisions.md (log 12, log 13). -/

open Sys2Proof Sys2Proof.Machine

/-! ### Encoding, fetch and decode (30_encoding.md) -/

/-- R94, R83: the decoder gives back every instruction from its word, with every operand at every value of its field. -/
def Obligations.DecodeInvertsEncode : Prop := ∀ i : Instr, decode (encode i) = .instr i

/-- R94, R95: a legal word is the word of the instruction it decodes to, but for the ignored y field (bits 7:4) of SHR
and SHL, which the encoder writes 0. So the decoder drops no other bit. -/
def Obligations.EncodeInvertsDecodeButForIgnoredField : Prop :=
  ∀ (w : Word) (i : Instr), decode w = .instr i →
    encode i = (match i with
      | .shr _ => w &&& 0xFF0F#16
      | .shl _ => w &&& 0xFF0F#16
      | _ => w)

/-- R96, R90-R93: the words the decoder rejects are those of the six sets of R96, family by family. -/
def Obligations.DecoderRejectsExactlyTheIllegalSets : Prop :=
  ∀ w : Word,
    decode w = .illegalOpcode ↔
      (w.toNat / 4096 = 0 ∧ w.toNat ≠ 0x00E0 ∧ w.toNat ≠ 0x00EE) ∨
      (w.toNat / 4096 = 5 ∧ w.toNat % 16 ≠ 0) ∨
      (w.toNat / 4096 = 8 ∧ w.toNat % 16 ∈ [8, 9, 0xA, 0xB, 0xC, 0xD, 0xF]) ∨
      (w.toNat / 4096 = 9 ∧ w.toNat % 16 ≠ 0) ∨
      (w.toNat / 4096 = 0xE ∧ w.toNat % 256 ∉ [0x9E, 0xA1]) ∨
      (w.toNat / 4096 = 0xF ∧ w.toNat % 256 ∉ [0x07, 0x0A, 0x15, 0x18, 0x1E, 0x29, 0x33, 0x55, 0x65])

/-- R88, R94: every word either decodes to an instruction whose row of the table it matches and matches no other row,
or is illegal and matches no row. -/
def Obligations.EveryWordMatchesAtMostOneRow : Prop :=
  ∀ w : Word,
    (decode w = .illegalOpcode ∧ ∀ r ∈ opcodeTable, r.matchesWord w = false) ∨
    (∃ i, decode w = .instr i ∧ (rowOf i).matchesWord w = true ∧
      (opcodeTable.filter (fun r => r.matchesWord w)) = [rowOf i])

/-- R94, one word or more of each family 0 to F, written out from the patterns. The opcode map is general knowledge (GK8). -/
def Obligations.SampleWordsDecode : Prop :=
  decode 0x00E0 = .instr .cls ∧ decode 0x00EE = .instr .ret ∧ decode 0x1ABC = .instr (.jp 0xABC) ∧
  decode 0x2300 = .instr (.call 0x300) ∧ decode 0x3312 = .instr (.seImm 3 0x12) ∧
  decode 0x4712 = .instr (.sneImm 7 0x12) ∧ decode 0x5120 = .instr (.seReg 1 2) ∧
  decode 0x6A5C = .instr (.ldImm 0xA 0x5C) ∧ decode 0x7201 = .instr (.addImm 2 0x01) ∧
  decode 0x8014 = .instr (.addReg 0 1) ∧ decode 0x82F6 = .instr (.shr 2) ∧ decode 0x9120 = .instr (.sneReg 1 2) ∧
  decode 0xA2F0 = .instr (.ldI 0x2F0) ∧ decode 0xB3F0 = .instr (.jpV0 0x3F0) ∧
  decode 0xC10F = .instr (.rnd 1 0x0F) ∧ decode 0xD125 = .instr (.drw 1 2 5) ∧ decode 0xE19E = .instr (.skp 1) ∧
  decode 0xF30A = .instr (.ldVxK 3) ∧ decode 0xF115 = .instr (.ldDtVx 1) ∧ decode 0xF255 = .instr (.storeRegs 2) ∧
  decode 0x0123 = .illegalOpcode ∧ decode 0x8008 = .illegalOpcode ∧ decode 0xF075 = .illegalOpcode

/-- R84, R86: when a running core receives `step` and its PC is even and at most 0xFFE, the step is `exec` of the
instruction that the two bytes at PC, the first the more significant, decode to, in the state without that event. -/
def Obligations.StepRunsDecodedInstruction : Prop :=
  ∀ (s : State) (w : Word) (i : Instr),
    s.run = .running → s.nextEvent = .step → s.pc.toNat % 2 = 0 → s.pc.toNat ≤ 0xFFE →
    w.toNat = (s.mem.read s.pc.toNat).toNat * 256 + (s.mem.read (s.pc.toNat + 1)).toNat →
    decode w = .instr i →
    step s = exec i s.takeEvent

/-- R86, R96, R271: a fetched word that is no instruction ends the step in `Faulted` with code `IllegalOpcode`, the PC
and the word recorded, and changes nothing else. -/
def Obligations.IllegalWordFaults : Prop :=
  ∀ (s : State) (w : Word),
    s.run = .running → s.nextEvent = .step → s.pc.toNat % 2 = 0 → s.pc.toNat ≤ 0xFFE →
    w.toNat = (s.mem.read s.pc.toNat).toNat * 256 + (s.mem.read (s.pc.toNat + 1)).toNat →
    decode w = .illegalOpcode →
    step s = .next { s.takeEvent with run := .faulted .illegalOpcode s.pc w }

/-- R85: an odd PC or one above 0xFFE fetches nothing and raises `InvariantViolation_PC`, with fop = 0 (D13). -/
def Obligations.UnfetchablePcFaults : Prop :=
  ∀ s : State, s.run = .running → s.nextEvent = .step → (s.pc.toNat % 2 ≠ 0 ∨ s.pc.toNat > 0xFFE) →
    step s = .next { s.takeEvent with run := .faulted .invariantPc s.pc 0 }

/-- R42: `step` changes no state in `Unreset`, `WaitingKey(x)` and `Faulted(...)`. -/
def Obligations.StepChangesNothingUnlessRunning : Prop :=
  ∀ s : State, s.run ≠ .running → s.nextEvent = .step → step s = .next s.takeEvent

/-- From every state the machine answers a next state: it never stops outside the spec's own run states, whatever the
event (derived from R40, R88 and the rules of every instruction; log 7). -/
def Obligations.EveryStepAnswersANextState : Prop := ∀ s : State, ∃ t, step s = .next t

/-! ### Faults (60_exceptions.md) -/

/-- R271, R11: a step of a running core that ends in a fault changes the run state alone, and records the PC of the
faulting instruction and the fetched word (0 for `InvariantViolation_PC`). -/
def Obligations.FaultsArePrecise : Prop :=
  ∀ (s t : State) (c : Cause) (fpc fop : Word),
    s.run = .running → s.nextEvent = .step → step s = .next t → t.run = .faulted c fpc fop →
    fpc = s.pc ∧
    (c = .invariantPc → fop = 0) ∧
    (c ≠ .invariantPc →
      fop.toNat = (s.mem.read s.pc.toNat).toNat * 256 + (s.mem.read (s.pc.toNat + 1)).toNat) ∧
    t = { s.takeEvent with run := .faulted c fpc fop }

/-- R270, R275: a step of a running core ends in a given fault exactly when that fault's condition holds, with the PC
checked before decoding and decoding before the instruction's own check. -/
def Obligations.FaultsHappenExactlyOnTheirConditions : Prop :=
  ∀ (s t : State) (c : Cause),
    s.run = .running → s.nextEvent = .step → step s = .next t →
    ((∃ fpc fop, t.run = .faulted c fpc fop) ↔ FaultCondition c s)

/-- R272: a faulted core stays faulted with the same record through every event but a `reset_req` whose ROM fits. -/
def Obligations.OnlyAcceptedResetLeavesFaulted : Prop :=
  ∀ (s t : State) (c : Cause) (fpc fop : Word),
    s.run = .faulted c fpc fop → step s = .next t →
    (t.run = .faulted c fpc fop ∨ ∃ rom, s.nextEvent = .resetReq rom ∧ rom.length ≤ 3584)

/-! ### Control flow (40_control_flow.md) -/

/-- R121: `00EE` pops into PC and changes SP and PC alone (the slot keeps its value, D24); with SP = 0 it raises
`StackUnderflow`. -/
def Obligations.RetPopsIntoPc : Prop :=
  ∀ s : State,
    decode 0x00EE = .instr .ret ∧
    (s.sp.val ≠ 0 → ∃ t, exec .ret s = .next t ∧
      t.sp.val = s.sp.val - 1 ∧ s.stack[s.sp.val - 1]? = some t.pc ∧ ChangesOnly [.sp, .pc] s t) ∧
    (s.sp.val = 0 → exec .ret s = .next { s with run := .faulted .stackUnderflow s.pc 0x00EE })

/-- R122: `2NNN` writes PC + 2 (16 bits, D32) to slot S[SP], adds 1 to SP and jumps, and no other slot changes; with
SP = 16 it raises `StackOverflow`. -/
def Obligations.CallPushesAndJumps : Prop :=
  ∀ (nnn : Addr) (s : State),
    decode (0x2#4 ++ nnn) = .instr (.call nnn) ∧
    (s.sp.val < 16 → ∃ t, exec (.call nnn) s = .next t ∧
      t.stack[s.sp.val]? = some (s.pc + 2) ∧
      (∀ j : Fin 16, j.val ≠ s.sp.val → t.stack[j] = s.stack[j]) ∧
      t.sp.val = s.sp.val + 1 ∧ t.pc.toNat = nnn.toNat ∧ ChangesOnly [.stack, .sp, .pc] s t) ∧
    (s.sp.val = 16 → exec (.call nnn) s = .next { s with run := .faulted .stackOverflow s.pc (0x2#4 ++ nnn) })

/-- §8 of the source (W7) and R121, R122: a return executed in any state with the stack a call left gives back the
address after the call and the SP from before it. -/
def Obligations.RetAfterCallReturns : Prop :=
  ∀ (nnn : Addr) (s t u : State),
    s.sp.val < 16 → exec (.call nnn) s = .next t → u.sp = t.sp → u.stack = t.stack →
    ∃ v, exec .ret u = .next v ∧ v.pc = s.pc + 2 ∧ v.sp = s.sp

/-- R123: `1NNN` sets PC to nnn, and nothing else changes. (The opcode map is general knowledge, GK8, log 11.) -/
def Obligations.JumpSetsPc : Prop :=
  ∀ (nnn : Addr) (s : State),
    decode (0x1#4 ++ nnn) = .instr (.jp nnn) ∧
    ∃ t, exec (.jp nnn) s = .next t ∧ t.pc.toNat = nnn.toNat ∧ ChangesOnly [.pc] s t

/-- R124: `BNNN` sets PC to nnn + V0, not wrapped at 12 bits, and nothing else changes. (V0 as the offset register is the
spec's decision D3, from general knowledge.) -/
def Obligations.OffsetJumpAddsV0 : Prop :=
  ∀ (nnn : Addr) (s : State),
    decode (0xB#4 ++ nnn) = .instr (.jpV0 nnn) ∧
    ∃ t, exec (.jpV0 nnn) s = .next t ∧ t.pc.toNat = nnn.toNat + (s.reg 0).toNat ∧ ChangesOnly [.pc] s t

/-- R125, R126, R129: `3XNN` adds 4 to PC when V[x] = nn and 2 otherwise, `4XNN` the reverse; nothing else changes.
(The opcode map is general knowledge, GK8, log 11.) -/
def Obligations.ImmediateSkips : Prop :=
  ∀ (x : Nibble) (nn : Byte) (s : State),
    (decode (0x3#4 ++ x ++ nn) = .instr (.seImm x nn) ∧
      ∃ t, exec (.seImm x nn) s = .next t ∧
        ((s.reg x).toNat = nn.toNat → t.pc = s.pc + 4) ∧ ((s.reg x).toNat ≠ nn.toNat → t.pc = s.pc + 2) ∧
        ChangesOnly [.pc] s t) ∧
    (decode (0x4#4 ++ x ++ nn) = .instr (.sneImm x nn) ∧
      ∃ t, exec (.sneImm x nn) s = .next t ∧
        ((s.reg x).toNat ≠ nn.toNat → t.pc = s.pc + 4) ∧ ((s.reg x).toNat = nn.toNat → t.pc = s.pc + 2) ∧
        ChangesOnly [.pc] s t)

/-- R127, R128, R129: `5XY0` adds 4 to PC when V[x] = V[y] and 2 otherwise, `9XY0` the reverse; nothing else changes. -/
def Obligations.RegisterSkips : Prop :=
  ∀ (x y : Nibble) (s : State),
    (decode (0x5#4 ++ x ++ y ++ 0x0#4) = .instr (.seReg x y) ∧
      ∃ t, exec (.seReg x y) s = .next t ∧
        ((s.reg x).toNat = (s.reg y).toNat → t.pc = s.pc + 4) ∧
        ((s.reg x).toNat ≠ (s.reg y).toNat → t.pc = s.pc + 2) ∧ ChangesOnly [.pc] s t) ∧
    (decode (0x9#4 ++ x ++ y ++ 0x0#4) = .instr (.sneReg x y) ∧
      ∃ t, exec (.sneReg x y) s = .next t ∧
        ((s.reg x).toNat ≠ (s.reg y).toNat → t.pc = s.pc + 4) ∧
        ((s.reg x).toNat = (s.reg y).toNat → t.pc = s.pc + 2) ∧ ChangesOnly [.pc] s t)

/-! ### Register ALU operations (41_alu.md) -/

/-- R141-R144: copy, OR, AND and XOR write V[x] bit by bit from the old V[x] and V[y], and change VF only as the
destination (D5, D6). -/
def Obligations.CopyAndLogicWriteOnlyTheirDestination : Prop :=
  ∀ (x y : Nibble) (s : State),
    (decode (0x8#4 ++ x ++ y ++ 0x0#4) = .instr (.ldReg x y) ∧
      ∃ t, exec (.ldReg x y) s = .next t ∧ t.reg x = s.reg y ∧ t.pc = s.pc + 2 ∧
        ChangesOnly [.reg x, .pc] s t) ∧
    (decode (0x8#4 ++ x ++ y ++ 0x1#4) = .instr (.orReg x y) ∧
      ∃ t, exec (.orReg x y) s = .next t ∧ t.pc = s.pc + 2 ∧ ChangesOnly [.reg x, .pc] s t ∧
        ∀ b, (t.reg x).getLsbD b = ((s.reg x).getLsbD b || (s.reg y).getLsbD b)) ∧
    (decode (0x8#4 ++ x ++ y ++ 0x2#4) = .instr (.andReg x y) ∧
      ∃ t, exec (.andReg x y) s = .next t ∧ t.pc = s.pc + 2 ∧ ChangesOnly [.reg x, .pc] s t ∧
        ∀ b, (t.reg x).getLsbD b = ((s.reg x).getLsbD b && (s.reg y).getLsbD b)) ∧
    (decode (0x8#4 ++ x ++ y ++ 0x3#4) = .instr (.xorReg x y) ∧
      ∃ t, exec (.xorReg x y) s = .next t ∧ t.pc = s.pc + 2 ∧ ChangesOnly [.reg x, .pc] s t ∧
        ∀ b, (t.reg x).getLsbD b = ((s.reg x).getLsbD b ^^ (s.reg y).getLsbD b))

/-- R145: `8XY4` leaves the sum mod 256 in V[x] and 1 in VF exactly when the true sum exceeds 255; with x = F VF holds
the flag (decision D7, log 12). -/
def Obligations.AddSetsCarry : Prop :=
  ∀ (x y : Nibble) (s : State),
    decode (0x8#4 ++ x ++ y ++ 0x4#4) = .instr (.addReg x y) ∧
    ∃ t, exec (.addReg x y) s = .next t ∧
      (x ≠ 0xF#4 → (t.reg x).toNat = ((s.reg x).toNat + (s.reg y).toNat) % 256) ∧
      (t.reg 0xF#4).toNat = (if (s.reg x).toNat + (s.reg y).toNat > 255 then 1 else 0) ∧
      t.pc = s.pc + 2 ∧ ChangesOnly [.reg x, .reg 0xF#4, .pc] s t

/-- R146, R148: `8XY5` computes V[x] - V[y] and `8XY7` V[y] - V[x], mod 256, into V[x], and leave 1 in VF exactly when
there is no borrow; with x = F VF holds the flag (decision D7, log 12). -/
def Obligations.SubtractionsSetNoBorrow : Prop :=
  ∀ (x y : Nibble) (s : State),
    (decode (0x8#4 ++ x ++ y ++ 0x5#4) = .instr (.subReg x y) ∧
      ∃ t, exec (.subReg x y) s = .next t ∧
        (x ≠ 0xF#4 → ((t.reg x).toNat : Int) = (((s.reg x).toNat : Int) - (s.reg y).toNat) % 256) ∧
        (t.reg 0xF#4).toNat = (if (s.reg x).toNat ≥ (s.reg y).toNat then 1 else 0) ∧
        t.pc = s.pc + 2 ∧ ChangesOnly [.reg x, .reg 0xF#4, .pc] s t) ∧
    (decode (0x8#4 ++ x ++ y ++ 0x7#4) = .instr (.subn x y) ∧
      ∃ t, exec (.subn x y) s = .next t ∧
        (x ≠ 0xF#4 → ((t.reg x).toNat : Int) = (((s.reg y).toNat : Int) - (s.reg x).toNat) % 256) ∧
        (t.reg 0xF#4).toNat = (if (s.reg y).toNat ≥ (s.reg x).toNat then 1 else 0) ∧
        t.pc = s.pc + 2 ∧ ChangesOnly [.reg x, .reg 0xF#4, .pc] s t)

/-- R147, R149, R95: `8XY6` and `8XYE` shift V[x] by one, whatever y is, and leave the bit shifted out in VF; with x = F
VF holds the flag (decision D7, log 12). -/
def Obligations.ShiftsSetShiftedOutBit : Prop :=
  ∀ (x y : Nibble) (s : State),
    (decode (0x8#4 ++ x ++ y ++ 0x6#4) = .instr (.shr x) ∧
      ∃ t, exec (.shr x) s = .next t ∧
        (x ≠ 0xF#4 → (t.reg x).toNat = (s.reg x).toNat / 2) ∧ (t.reg 0xF#4).toNat = (s.reg x).toNat % 2 ∧
        t.pc = s.pc + 2 ∧ ChangesOnly [.reg x, .reg 0xF#4, .pc] s t) ∧
    (decode (0x8#4 ++ x ++ y ++ 0xE#4) = .instr (.shl x) ∧
      ∃ t, exec (.shl x) s = .next t ∧
        (x ≠ 0xF#4 → (t.reg x).toNat = (s.reg x).toNat * 2 % 256) ∧ (t.reg 0xF#4).toNat = (s.reg x).toNat / 128 ∧
        t.pc = s.pc + 2 ∧ ChangesOnly [.reg x, .reg 0xF#4, .pc] s t)

/-! ### Immediate operations (42_immediate.md) -/

/-- R161, R162: `6XNN` loads nn, `7XNN` adds nn mod 256; neither changes VF but as the destination.
(The opcode map is general knowledge, GK8, log 11.) -/
def Obligations.ImmediateLoadAndAddWriteNoFlag : Prop :=
  ∀ (x : Nibble) (nn : Byte) (s : State),
    (decode (0x6#4 ++ x ++ nn) = .instr (.ldImm x nn) ∧
      ∃ t, exec (.ldImm x nn) s = .next t ∧ t.reg x = nn ∧ t.pc = s.pc + 2 ∧ ChangesOnly [.reg x, .pc] s t) ∧
    (decode (0x7#4 ++ x ++ nn) = .instr (.addImm x nn) ∧
      ∃ t, exec (.addImm x nn) s = .next t ∧ (t.reg x).toNat = ((s.reg x).toNat + nn.toNat) % 256 ∧
        t.pc = s.pc + 2 ∧ ChangesOnly [.reg x, .pc] s t)

/-- R163: `ANNN` sets I to nnn; nothing else changes but PC. (The opcode map is general knowledge, GK8, log 11.) -/
def Obligations.IndexLoadSetsI : Prop :=
  ∀ (nnn : Addr) (s : State),
    decode (0xA#4 ++ nnn) = .instr (.ldI nnn) ∧
    ∃ t, exec (.ldI nnn) s = .next t ∧ t.i.toNat = nnn.toNat ∧ t.pc = s.pc + 2 ∧ ChangesOnly [.i, .pc] s t

/-- R164, R184: `FX1E` adds V[x] to I and keeps the low 12 bits (no flag, D10), `FX29` sets I to V[x] * 5 with no mask (D11);
nothing else changes but PC. -/
def Obligations.IndexAddAndGlyphAddress : Prop :=
  ∀ (x : Nibble) (s : State),
    (decode (0xF#4 ++ x ++ 0x1E#8) = .instr (.addI x) ∧
      ∃ t, exec (.addI x) s = .next t ∧ t.i.toNat = (s.i.toNat + (s.reg x).toNat) % 4096 ∧ t.pc = s.pc + 2 ∧
        ChangesOnly [.i, .pc] s t) ∧
    (decode (0xF#4 ++ x ++ 0x29#8) = .instr (.ldF x) ∧
      ∃ t, exec (.ldF x) s = .next t ∧ t.i.toNat = (s.reg x).toNat * 5 ∧ t.pc = s.pc + 2 ∧
        ChangesOnly [.i, .pc] s t)

/-- R165, R46: `CXNN` takes one sample r of `rnd` (the environment's next byte where it has fixed one, any byte
otherwise) and leaves r AND nn in V[x]. Every byte is admitted: for each r there is a plan that gives it. (The AND and the
input are the spec's decision D4; the plan is the model's, log 2.) -/
def Obligations.RandomByteIsMasked : Prop :=
  ∀ (x : Nibble) (nn : Byte) (s : State),
    decode (0xC#4 ++ x ++ nn) = .instr (.rnd x nn) ∧
    ∃ t r, exec (.rnd x nn) s = .next t ∧
      (∀ b rest, s.rndPlan = b :: rest → r = b ∧ t.rndPlan = rest) ∧ (s.rndPlan = [] → t.rndPlan = []) ∧
      t.samples = s.samples + 1 ∧ t.reg x = r &&& nn ∧
      t.pc = s.pc + 2 ∧ ChangesOnly [.reg x, .pc, .rndPlan, .samples] s t

/-! ### Memory block operations (43_memory_font.md) -/

/-- R181, R180: `FX33` stores the hundreds, tens and ones of V[x] at I, I+1, I+2, and no other byte changes, nor I; when
I + 2 is above 0xFFF it raises `InvariantViolation_ADDRESS` and does nothing else (D12). The stored bytes are read back
from a memory in its canonical form. -/
def Obligations.BcdIsStored : Prop :=
  ∀ (x : Nibble) (s : State),
    decode (0xF#4 ++ x ++ 0x33#8) = .instr (.ldB x) ∧
    (s.iAddr + 2 ≤ 0xFFF → ∃ t, exec (.ldB x) s = .next t ∧
      (s.mem.wf = true →
        (t.mem.read s.iAddr).toNat = (s.reg x).toNat / 100 ∧
        (t.mem.read (s.iAddr + 1)).toNat = (s.reg x).toNat / 10 % 10 ∧
        (t.mem.read (s.iAddr + 2)).toNat = (s.reg x).toNat % 10) ∧
      (∀ a, a < s.iAddr ∨ s.iAddr + 2 < a → t.mem.read a = s.mem.read a) ∧
      t.pc = s.pc + 2 ∧ ChangesOnly [.mem, .pc] s t) ∧
    (s.iAddr + 2 > 0xFFF →
      exec (.ldB x) s = .next { s with run := .faulted .invariantAddress s.pc (0xF#4 ++ x ++ 0x33#8) })

/-- R182, R180: `FX55` stores V0..Vx at I..I+x, and no other byte changes, nor I (D9); when I + x is above 0xFFF it raises
`InvariantViolation_ADDRESS` and does nothing else (D12). -/
def Obligations.RegistersAreStored : Prop :=
  ∀ (x : Nibble) (s : State),
    decode (0xF#4 ++ x ++ 0x55#8) = .instr (.storeRegs x) ∧
    (s.iAddr + x.toNat ≤ 0xFFF → ∃ t, exec (.storeRegs x) s = .next t ∧
      (s.mem.wf = true → ∀ r : Nibble, r.toNat ≤ x.toNat → t.mem.read (s.iAddr + r.toNat) = s.reg r) ∧
      (∀ a, a < s.iAddr ∨ s.iAddr + x.toNat < a → t.mem.read a = s.mem.read a) ∧
      t.pc = s.pc + 2 ∧ ChangesOnly [.mem, .pc] s t) ∧
    (s.iAddr + x.toNat > 0xFFF →
      exec (.storeRegs x) s = .next { s with run := .faulted .invariantAddress s.pc (0xF#4 ++ x ++ 0x55#8) })

/-- R183, R180: `FX65` loads V0..Vx from I..I+x and changes no register above Vx, nor I (D9), nor memory; when I + x is above
0xFFF it raises `InvariantViolation_ADDRESS` and does nothing else (D12). -/
def Obligations.RegistersAreLoaded : Prop :=
  ∀ (x : Nibble) (s : State),
    decode (0xF#4 ++ x ++ 0x65#8) = .instr (.loadRegs x) ∧
    (s.iAddr + x.toNat ≤ 0xFFF → ∃ t, exec (.loadRegs x) s = .next t ∧
      (∀ r : Nibble, r.toNat ≤ x.toNat → t.reg r = s.mem.read (s.iAddr + r.toNat)) ∧
      (∀ r : Nibble, x.toNat < r.toNat → t.reg r = s.reg r) ∧
      t.pc = s.pc + 2 ∧ ChangesOnly (.pc :: allRegs) s t) ∧
    (s.iAddr + x.toNat > 0xFFF →
      exec (.loadRegs x) s = .next { s with run := .faulted .invariantAddress s.pc (0xF#4 ++ x ++ 0x65#8) })

/-- R71, R313: a word whose two bytes an `FX55` has just stored is the word a fetch there reads. -/
def Obligations.StoredBytesAreFetched : Prop :=
  ∀ (x r q : Nibble) (s t : State) (pc : Word),
    s.mem.wf = true → s.iAddr + x.toNat ≤ 0xFFF → exec (.storeRegs x) s = .next t →
    q.toNat = r.toNat + 1 → q.toNat ≤ x.toNat → pc.toNat = s.iAddr + r.toNat →
    (t.setPc pc).fetch.toNat = (s.reg r).toNat * 256 + (s.reg q).toNat

/-! ### Display (44_display.md) -/

/-- R208, R203: `00E0` makes all 256 bytes of FB 0 and emits one `draw_event` (R48, decision D25, log 12). The pulse is
counted in `drawEvents`, the model's choice (log 6). -/
def Obligations.ClsClearsTheFramebuffer : Prop :=
  ∀ s : State,
    decode 0x00E0 = .instr .cls ∧
    ∃ t, exec .cls s = .next t ∧ (∀ b : Fin 256, t.fb[b] = 0) ∧ t.drawEvents = s.drawEvents + 1 ∧
      t.pc = s.pc + 2 ∧ ChangesOnly [.fb, .drawEvents, .pc] s t

/-- R205-R207: `DXYN` XORs the n bytes at I into the pixels at (V[x] mod 64, V[y] mod 32), wrapping, writes 1 to VF when a
lit pixel was cleared and 0 otherwise, and emits one `draw_event`; with n = 0 FB is unchanged; when n ≥ 1 and I + n - 1 is
above 0xFFF it raises `InvariantViolation_ADDRESS` and does nothing else (D12, D22). The pulse is D25 (log 12), counted in
`drawEvents` (log 6). -/
def Obligations.DrwDrawsAndSetsCollision : Prop :=
  ∀ (x y n : Nibble) (s : State) (rows : List Byte),
    rows = (List.range n.toNat).map (fun k => s.mem.read (s.iAddr + k)) →
    decode (0xD#4 ++ x ++ y ++ n) = .instr (.drw x y n) ∧
    ((n.toNat = 0 ∨ s.iAddr + n.toNat - 1 ≤ 0xFFF) → ∃ t, exec (.drw x y n) s = .next t ∧
      (∀ c < 64, ∀ r < 32,
        pixel t.fb c r =
          (pixel s.fb c r ^^ spriteBit rows ((s.reg x).toNat % 64) ((s.reg y).toNat % 32) c r)) ∧
      (SpriteHits s.fb rows ((s.reg x).toNat % 64) ((s.reg y).toNat % 32) → t.reg 0xF#4 = 1) ∧
      (¬ SpriteHits s.fb rows ((s.reg x).toNat % 64) ((s.reg y).toNat % 32) → t.reg 0xF#4 = 0) ∧
      (n.toNat = 0 → t.fb = s.fb) ∧ t.drawEvents = s.drawEvents + 1 ∧ t.pc = s.pc + 2 ∧
      ChangesOnly [.fb, .reg 0xF#4, .drawEvents, .pc] s t) ∧
    (n.toNat ≥ 1 → s.iAddr + n.toNat - 1 > 0xFFF →
      exec (.drw x y n) s = .next { s with run := .faulted .invariantAddress s.pc (0xD#4 ++ x ++ y ++ n) })

/-- R200, R202: the byte-level blitter XORs the sprite into the 64 by 32 pixels, wrapping on the same row and from the
bottom to the top, and touches no other pixel. -/
def Obligations.BlitterXorsPixelsWithWrap : Prop :=
  ∀ (fb : Framebuffer) (rows : List Byte) (x0 y0 c r : Nat),
    rows.length ≤ 32 → x0 < 64 → y0 < 32 → c < 64 → r < 32 →
    pixel (draw fb rows x0 y0).1 c r = (pixel fb c r ^^ spriteBit rows x0 y0 c r)

/-- R201: `draw` reports a collision exactly when some pixel it touches was 1 before the XOR and is 0 after it. -/
def Obligations.CollisionIsAClearedPixel : Prop :=
  ∀ (fb : Framebuffer) (rows : List Byte) (x0 y0 : Nat),
    rows.length ≤ 32 → x0 < 64 → y0 < 32 →
    ((draw fb rows x0 y0).2 = true ↔
      ∃ c < 64, ∃ r < 32, pixel fb c r = true ∧ pixel (draw fb rows x0 y0).1 c r = false)

/-- §8 of the source (W5), derived from R200: drawing the same sprite twice at the same place restores FB. -/
def Obligations.DrawingTwiceRestoresTheFramebuffer : Prop :=
  ∀ (fb : Framebuffer) (rows : List Byte) (x0 y0 : Nat),
    rows.length ≤ 32 → x0 < 64 → y0 < 32 →
    (draw (draw fb rows x0 y0).1 rows x0 y0).1 = fb

/-! ### Key input (45_input.md) -/

/-- R230, R231, R45: `EX9E` and `EXA1` take one sample of `keys_down` (the environment's next levels where it has fixed
them, any levels otherwise) and skip when bit V[x] of it is 1, respectively 0; with V[x] above 0xF they raise
`InvariantViolation_KEY` and sample nothing (D14). The plan is the model's, log 2. -/
def Obligations.KeySkipsSampleOnce : Prop :=
  ∀ (x : Nibble) (s : State),
    (decode (0xE#4 ++ x ++ 0x9E#8) = .instr (.skp x) ∧
      ((s.reg x).toNat ≤ 0xF → ∃ (t : State) (keys : BitVec 16), exec (.skp x) s = .next t ∧
        (∀ k rest, s.keysPlan = k :: rest → keys = k ∧ t.keysPlan = rest) ∧ (s.keysPlan = [] → t.keysPlan = []) ∧
        t.samples = s.samples + 1 ∧
        t.pc = (if keys.getLsbD (s.reg x).toNat = true then s.pc + 4 else s.pc + 2) ∧
        ChangesOnly [.pc, .keysPlan, .samples] s t) ∧
      ((s.reg x).toNat > 0xF →
        exec (.skp x) s = .next { s with run := .faulted .invariantKey s.pc (0xE#4 ++ x ++ 0x9E#8) })) ∧
    (decode (0xE#4 ++ x ++ 0xA1#8) = .instr (.sknp x) ∧
      ((s.reg x).toNat ≤ 0xF → ∃ (t : State) (keys : BitVec 16), exec (.sknp x) s = .next t ∧
        (∀ k rest, s.keysPlan = k :: rest → keys = k ∧ t.keysPlan = rest) ∧ (s.keysPlan = [] → t.keysPlan = []) ∧
        t.samples = s.samples + 1 ∧
        t.pc = (if keys.getLsbD (s.reg x).toNat = true then s.pc + 2 else s.pc + 4) ∧
        ChangesOnly [.pc, .keysPlan, .samples] s t) ∧
      ((s.reg x).toNat > 0xF →
        exec (.sknp x) s = .next { s with run := .faulted .invariantKey s.pc (0xE#4 ++ x ++ 0xA1#8) }))

/-- R232: `FX0A` puts the core in `WaitingKey(x)` and changes nothing else, PC included. -/
def Obligations.KeyWaitSuspends : Prop :=
  ∀ (x : Nibble) (s : State),
    decode (0xF#4 ++ x ++ 0x0A#8) = .instr (.ldVxK x) ∧
    ∃ t, exec (.ldVxK x) s = .next t ∧ t.run = .waitingKey x ∧ ChangesOnly [.run] s t

/-- R233, R44: `key_press(k)` in `WaitingKey(x)` writes k to V[x], adds 2 to PC and resumes the core, in one transition;
in every other run state it changes nothing. -/
def Obligations.KeyPressCompletesTheWait : Prop :=
  ∀ (s : State) (k : Nibble), s.nextEvent = .keyPress k →
    (∀ x, s.run = .waitingKey x → ∃ t, step s = .next t ∧
      (t.reg x).toNat = k.toNat ∧ t.pc = s.pc + 2 ∧ t.run = .running ∧ t.events = s.events.tail ∧
      ChangesOnly [.reg x, .pc, .run, .events] s t) ∧
    ((∀ x, s.run ≠ .waitingKey x) → step s = .next s.takeEvent)

/-! ### Timers (46_timers.md) -/

/-- R252-R254: `FX07` copies DT to V[x], `FX15` and `FX18` copy V[x] to DT and to ST; nothing else changes but PC. -/
def Obligations.TimerInstructionsMoveOneByte : Prop :=
  ∀ (x : Nibble) (s : State),
    (decode (0xF#4 ++ x ++ 0x07#8) = .instr (.ldVxDt x) ∧
      ∃ t, exec (.ldVxDt x) s = .next t ∧ t.reg x = s.dt ∧ t.pc = s.pc + 2 ∧ ChangesOnly [.reg x, .pc] s t) ∧
    (decode (0xF#4 ++ x ++ 0x15#8) = .instr (.ldDtVx x) ∧
      ∃ t, exec (.ldDtVx x) s = .next t ∧ t.dt = s.reg x ∧ t.pc = s.pc + 2 ∧ ChangesOnly [.dt, .pc] s t) ∧
    (decode (0xF#4 ++ x ++ 0x18#8) = .instr (.ldStVx x) ∧
      ∃ t, exec (.ldStVx x) s = .next t ∧ t.st = s.reg x ∧ t.pc = s.pc + 2 ∧ ChangesOnly [.st, .pc] s t)

/-- R250, R251: a `tick` takes 1 from DT and from ST where they are above 0, in every run state but `Unreset`, and changes
nothing else; in `Unreset` it changes nothing (D17, D29). -/
def Obligations.TickCountsBothTimersDown : Prop :=
  ∀ s : State, s.nextEvent = .tick →
    (s.run ≠ .unreset → ∃ t, step s = .next t ∧
      (s.dt.toNat > 0 → t.dt.toNat = s.dt.toNat - 1) ∧ (s.dt.toNat = 0 → t.dt.toNat = 0) ∧
      (s.st.toNat > 0 → t.st.toNat = s.st.toNat - 1) ∧ (s.st.toNat = 0 → t.st.toNat = 0) ∧
      t.events = s.events.tail ∧ ChangesOnly [.dt, .st, .events] s t) ∧
    (s.run = .unreset → step s = .next s.takeEvent)

/-- R250 over any number of ticks (W9): after n ticks in a row each timer has fallen by n, stopping at 0, and nothing else
has changed. -/
def Obligations.TicksBringTimersToZero : Prop :=
  ∀ (n : Nat) (s : State) (rest : List Event),
    s.run ≠ .unreset → s.events = List.replicate n .tick ++ rest →
    ∃ t, Sys2Proof.core.run n s = .next t ∧ t.dt.toNat = s.dt.toNat - n ∧ t.st.toNat = s.st.toNat - n ∧
      t.events = rest ∧ ChangesOnly [.dt, .st, .events] s t

/-! ### Reset (70_reset_and_hazards.md) -/

/-- R300, R61, R35: a `reset_req` with a ROM of at most 3584 bytes, in every run state, leaves the FONT that the machine was
given (`s.font`, any 80 bytes), zeros and the ROM in memory, every register, stack slot, timer and framebuffer byte 0, PC at 0x200, the core
running and the answer OK. -/
def Obligations.AcceptedResetSetsEveryField : Prop :=
  ∀ (s : State) (rom : List Byte), s.nextEvent = .resetReq rom → rom.length ≤ 3584 →
    ∃ t, step s = .next t ∧
      (∀ a, (h : a < 80) → t.mem.read a = s.font[a]) ∧
      (∀ a, 0x50 ≤ a → a < 0x200 → t.mem.read a = 0) ∧
      (∀ j, (h : j < rom.length) → t.mem.read (0x200 + j) = rom[j]) ∧
      (∀ a, 0x200 + rom.length ≤ a → a ≤ 0xFFF → t.mem.read a = 0) ∧
      (∀ x, t.reg x = 0) ∧ t.i = 0 ∧ t.pc = 0x200 ∧ t.sp.val = 0 ∧ (∀ j : Fin 16, t.stack[j] = 0) ∧
      t.dt = 0 ∧ t.st = 0 ∧ (∀ b : Fin 256, t.fb[b] = 0) ∧ t.run = .running ∧ t.resetAck = some .ok ∧ t.font = s.font

/-- R301: a `reset_req` with a longer ROM answers `RomTooLarge` and changes nothing else, in every run state (D21). -/
def Obligations.OversizedRomIsRefused : Prop :=
  ∀ (s : State) (rom : List Byte), s.nextEvent = .resetReq rom → rom.length > 3584 →
    step s = .next { s.takeEvent with resetAck := some .romTooLarge }

/-- R300, R20: the values of the state after reset (with the empty ROM, log 4). The font is `fontTable`, the default of
R35 (general knowledge, GK1; log 3). -/
def Obligations.ResetStateHoldsTheResetValues : Prop :=
  (∀ a < 0x50, State.reset.mem.read a = fontTable.getD a 0) ∧
  (∀ a, 0x50 ≤ a → a ≤ 0xFFF → State.reset.mem.read a = 0) ∧
  (∀ x, State.reset.reg x = 0) ∧ State.reset.i = 0 ∧ State.reset.pc = 0x200 ∧ State.reset.sp.val = 0 ∧
  (∀ j : Fin 16, State.reset.stack[j] = 0) ∧ State.reset.dt = 0 ∧ State.reset.st = 0 ∧
  (∀ b : Fin 256, State.reset.fb[b] = 0) ∧ State.reset.run = .running ∧ State.reset.resetAck = some .ok

/-! ### Rules about the whole machine -/

/-- R21, R22: an instruction changes no general register but its destination and, for the ADD, SUB, SUBN, SHR, SHL and DRW
forms, VF (`destinations`, Safety.lean). -/
def Obligations.RegistersChangeOnlyAtDestinations : Prop :=
  ∀ (i : Instr) (s t : State) (r : Nibble), exec i s = .next t → r ∉ destinations i → t.reg r = s.reg r

/-- R26, R27: only `2NNN` and `00EE` change SP, and only `2NNN` changes the stack. -/
def Obligations.StackChangesOnlyByCallAndRet : Prop :=
  ∀ (i : Instr) (s t : State), exec i s = .next t →
    (t.sp ≠ s.sp → i = .ret ∨ ∃ nnn, i = .call nnn) ∧ (t.stack ≠ s.stack → ∃ nnn, i = .call nnn)

/-- R23, R28, R29: only `ANNN`, `FX1E` and `FX29` change I, and they leave at most 0xFFF in it; only `FX15` changes DT and only
`FX18` changes ST. -/
def Obligations.IndexAndTimersChangeOnlyByTheirWriters : Prop :=
  ∀ (i : Instr) (s t : State), exec i s = .next t →
    (t.i ≠ s.i → ((∃ nnn, i = .ldI nnn) ∨ (∃ x, i = .addI x) ∨ (∃ x, i = .ldF x)) ∧ t.i.toNat ≤ 0xFFF) ∧
    (t.dt ≠ s.dt → ∃ x, i = .ldDtVx x) ∧ (t.st ≠ s.st → ∃ x, i = .ldStVx x)

/-- R62, R63: only `FX33` and `FX55` change memory, and only at I..I+2 and I..I+x, inside 0x000..0xFFF. -/
def Obligations.MemoryChangesOnlyByStores : Prop :=
  ∀ (i : Instr) (s t : State) (a : Nat), exec i s = .next t → t.mem.read a ≠ s.mem.read a →
    s.iAddr ≤ a ∧ a ≤ 0xFFF ∧
    ((∃ x, i = .ldB x ∧ a ≤ s.iAddr + 2) ∨ (∃ x : Nibble, i = .storeRegs x ∧ a ≤ s.iAddr + x.toNat))

/-- R30, R48: only `DXYN` and `00E0` change the framebuffer, and only they emit a `draw_event`; every other instruction
emits none. -/
def Obligations.FramebufferChangesOnlyByDrawAndClear : Prop :=
  ∀ (i : Instr) (s t : State), exec i s = .next t → (t.fb ≠ s.fb ∨ t.drawEvents ≠ s.drawEvents) →
    (i = .cls ∨ ∃ x y n, i = .drw x y n) ∧ t.drawEvents = s.drawEvents + 1

/-- R87, R12: an instruction that completes and is no jump, call, return, skip or key wait advances PC by 2, in 16 bits. -/
def Obligations.PcAdvancesByTwoElsewhere : Prop :=
  ∀ (i : Instr) (s t : State), setsPc i = false → exec i s = .next t → t.run = s.run → s.run = .running →
    t.pc = s.pc + 2

/-- R29: no instruction reads ST: replacing it changes nothing that an instruction does, but for the ST that it leaves where
it does not write it. -/
def Obligations.SoundTimerIsReadByNoInstruction : Prop :=
  ∀ (i : Instr) (s t : State) (b : Byte), exec i s = .next t →
    exec i { s with st := b } =
      .next (match i with
        | .ldStVx _ => t
        | _ => { t with st := b })

/-- R75: `DXYN` is the only instruction that reads the framebuffer: replacing it changes nothing that another instruction
does, but for the framebuffer that it leaves where it does not clear it. -/
def Obligations.FramebufferIsReadOnlyByDraw : Prop :=
  ∀ (i : Instr) (s t : State) (f : Framebuffer), (∀ x y n, i ≠ .drw x y n) → exec i s = .next t →
    exec i { s with fb := f } =
      .next (match i with
        | .cls => t
        | _ => { t with fb := f })

/-- R49, R29: `sound_on` changes only at a `tick`, an accepted `reset_req`, or a `step` that executes `FX18`. -/
def Obligations.SoundTransitionsHaveThreeSources : Prop :=
  ∀ s t : State, step s = .next t → soundTransition s t = true →
    s.nextEvent = .tick ∨ (∃ rom, s.nextEvent = .resetReq rom ∧ rom.length ≤ 3584) ∨
    (s.nextEvent = .step ∧ s.run = .running ∧ ∃ x, decode s.fetch = .instr (.ldStVx x))

/-- R36, with R32, R33 and R271: whatever the event, a step from a state that meets the invariant gives one that meets it:
memory canonical, I at most 0xFFF, a waiting core at its `FX0A`, a faulted core at the fault its record describes. -/
def Obligations.EveryStepKeepsTheInvariant : Prop :=
  ∀ s t : State, s.Inv → step s = .next t → t.Inv

/-- R36: the state after reset meets the invariant. -/
def Obligations.ResetMeetsTheInvariant : Prop := State.reset.Inv

/-- R6, R35: FONT is a parameter: no event changes it, so every later reset loads the same bytes. -/
def Obligations.FontIsChangedByNoEvent : Prop := ∀ s t : State, step s = .next t → t.font = s.font

/-- R89: in families 1, 2, 3, 4, 6, 7, A, B, C and D every word is legal, and two words of one family decode to the same
instruction, whatever their other 12 bits are. (The row of an instruction stands for which of the 34 it is: no two
constructors of `Instr` have the same row.) -/
def Obligations.TenFamiliesDecodeByTheFamilyNibbleAlone : Prop :=
  ∀ w w' : Word,
    w.toNat / 4096 ∈ [1, 2, 3, 4, 6, 7, 0xA, 0xB, 0xC, 0xD] → w'.toNat / 4096 = w.toNat / 4096 →
    ∃ i i', decode w = .instr i ∧ decode w' = .instr i' ∧ rowOf i = rowOf i'

/-- R84: the fetched word is the byte at PC shifted left by 8, OR the byte at PC + 1, and fetching changes no state: the
instruction it decodes to is executed in the state as it stood before the fetch. -/
def Obligations.FetchIsBigEndianAndChangesNothing : Prop :=
  ∀ s : State, s.pc.toNat + 1 ≤ 0xFFF →
    s.fetch = ((s.mem.read s.pc.toNat).setWidth 16 <<< 8 ||| (s.mem.read (s.pc.toNat + 1)).setWidth 16) ∧
    (s.pc.toNat % 2 = 0 → ∀ i, decode s.fetch = .instr i → fetchExecute s = exec i s)
end

