-- ==== Sys2Proof/Laws/Blitter.lean ====
section
/-! SUPPORT. What the blitter's operations do to one pixel (44_display.md R200, R201). -/

namespace Sys2Proof.Machine

/-- Two byte positions of FB are the same exactly when their row and their byte in the row are. -/
theorem fbIndex_eq_iff (r b r' b' : Nat) : fbIndex r b = fbIndex r' b' ↔ r % 32 = r' % 32 ∧ b % 8 = b' % 8 := by
  simp only [fbIndex, Fin.mk.injEq]
  omega

/-- A byte of FB after bits are XORed into one byte. -/
theorem getElem_xorByte (fb : Framebuffer) (i j : Fin 256) (bits : Byte) :
    (xorByte fb i bits).1[j] = if i = j then fb[j] ^^^ bits else fb[j] := by
  simp only [xorByte, Fin.getElem_fin, Vector.getElem_set, Fin.ext_iff]
  split
  · next h => simp [h]
  · rfl

/-- A pixel of FB after bits are XORed into one byte: it is XORed with its own bit of them. -/
theorem pixel_xorByte (fb : Framebuffer) (i : Fin 256) (bits : Byte) (c r : Nat) :
    pixel (xorByte fb i bits).1 c r = (pixel fb c r ^^ (decide (i = fbIndex r (c / 8)) && bits.getLsbD (7 - c % 8))) := by
  unfold pixel
  rw [getElem_xorByte]
  split
  · next h => simp [h]
  · next h => simp [h]

/-- A framebuffer is its pixels. -/
theorem fb_ext {f g : Framebuffer} (h : ∀ c < 64, ∀ r < 32, pixel f c r = pixel g c r) : f = g := by
  apply Vector.ext
  intro k hk
  apply BitVec.eq_of_getLsbD_eq
  intro b hb
  have hp := h (k % 8 * 8 + (7 - b)) (by omega) (k / 8) (by omega)
  have hi : fbIndex (k / 8) ((k % 8 * 8 + (7 - b)) / 8) = ⟨k, hk⟩ := by
    apply Fin.ext
    simp only [fbIndex]
    omega
  have hbit : 7 - (k % 8 * 8 + (7 - b)) % 8 = b := by omega
  simpa only [pixel, hi, hbit, Fin.getElem_fin] using hp

@[simp] theorem draw_nil (fb : Framebuffer) (x y : Nat) : draw fb [] x y = (fb, false) := rfl

theorem draw_cons (fb : Framebuffer) (s : Byte) (rest : List Byte) (x y : Nat) :
    draw fb (s :: rest) x y =
      ((draw (drawRow fb s x y).1 rest x (y + 1)).1,
        (drawRow fb s x y).2 || (draw (drawRow fb s x y).1 rest x (y + 1)).2) := rfl

end Sys2Proof.Machine
end

