-- ==== Sys2Proof/Laws/Decode.lean ====
section
/-! SUPPORT. The numbers the decoder's fields are (30_encoding.md R81), the numbers of words written out from their
fields (R83), what each field is of such a word, and the two bytes of a word in memory order (R84). -/

namespace Sys2Proof

section numbers
variable (w : Word)

theorem fieldFamily_toNat : (fieldFamily w).toNat = w.toNat / 4096 := by
  have := w.isLt
  simp [fieldFamily, BitVec.extractLsb'_toNat, Nat.shiftRight_eq_div_pow]
  omega

theorem fieldX_toNat : (fieldX w).toNat = w.toNat / 256 % 16 := by
  simp [fieldX, BitVec.extractLsb'_toNat, Nat.shiftRight_eq_div_pow]

theorem fieldY_toNat : (fieldY w).toNat = w.toNat / 16 % 16 := by
  simp [fieldY, BitVec.extractLsb'_toNat, Nat.shiftRight_eq_div_pow]

theorem fieldN_toNat : (fieldN w).toNat = w.toNat % 16 := by
  simp [fieldN, BitVec.extractLsb'_toNat]

theorem fieldNn_toNat : (fieldNn w).toNat = w.toNat % 256 := by
  simp [fieldNn, BitVec.extractLsb'_toNat]

theorem fieldNnn_toNat : (fieldNnn w).toNat = w.toNat % 4096 := by
  simp [fieldNnn, BitVec.extractLsb'_toNat]

theorem highByte_toNat : (highByte w).toNat = w.toNat / 256 := by
  have := w.isLt
  simp [highByte, BitVec.extractLsb'_toNat, Nat.shiftRight_eq_div_pow]
  omega

theorem lowByte_toNat : (lowByte w).toNat = w.toNat % 256 := by
  simp [lowByte, BitVec.extractLsb'_toNat]

end numbers

section words
variable (f x y n : Nibble) (nn : Byte) (nnn : Addr)

theorem word_nnn_toNat : (f ++ nnn : Word).toNat = f.toNat * 4096 + nnn.toNat := by
  have := f.isLt; have := nnn.isLt
  simp only [BitVec.toNat_append]
  rw [← Nat.shiftLeft_add_eq_or_of_lt (by omega), Nat.shiftLeft_eq]

theorem word_xnn_toNat : (f ++ x ++ nn : Word).toNat = f.toNat * 4096 + x.toNat * 256 + nn.toNat := by
  have := f.isLt; have := x.isLt; have := nn.isLt
  simp only [BitVec.toNat_append]
  rw [← Nat.shiftLeft_add_eq_or_of_lt (by omega), ← Nat.shiftLeft_add_eq_or_of_lt (by omega)]
  simp only [Nat.shiftLeft_eq]
  omega

theorem word_xyn_toNat :
    (f ++ x ++ y ++ n : Word).toNat = f.toNat * 4096 + x.toNat * 256 + y.toNat * 16 + n.toNat := by
  have := f.isLt; have := x.isLt; have := y.isLt; have := n.isLt
  simp only [BitVec.toNat_append]
  rw [← Nat.shiftLeft_add_eq_or_of_lt (by omega), ← Nat.shiftLeft_add_eq_or_of_lt (by omega),
    ← Nat.shiftLeft_add_eq_or_of_lt (by omega)]
  simp only [Nat.shiftLeft_eq]
  omega

theorem assembleWord_toNat (hi lo : Byte) : (assembleWord hi lo).toNat = hi.toNat * 256 + lo.toNat := by
  have := hi.isLt; have := lo.isLt
  simp only [assembleWord, BitVec.toNat_append]
  rw [← Nat.shiftLeft_add_eq_or_of_lt (by omega), Nat.shiftLeft_eq]

@[simp] theorem fieldFamily_nnn : fieldFamily (f ++ nnn) = f := by
  have := nnn.isLt
  apply BitVec.eq_of_toNat_eq
  rw [fieldFamily_toNat, word_nnn_toNat]
  omega

@[simp] theorem fieldNnn_nnn : fieldNnn (f ++ nnn) = nnn := by
  have := nnn.isLt
  apply BitVec.eq_of_toNat_eq
  rw [fieldNnn_toNat, word_nnn_toNat]
  omega

@[simp] theorem fieldFamily_xnn : fieldFamily (f ++ x ++ nn) = f := by
  have := x.isLt; have := nn.isLt
  apply BitVec.eq_of_toNat_eq
  rw [fieldFamily_toNat, word_xnn_toNat]
  omega

@[simp] theorem fieldX_xnn : fieldX (f ++ x ++ nn) = x := by
  have := x.isLt; have := nn.isLt
  apply BitVec.eq_of_toNat_eq
  rw [fieldX_toNat, word_xnn_toNat]
  omega

@[simp] theorem fieldNn_xnn : fieldNn (f ++ x ++ nn) = nn := by
  have := nn.isLt
  apply BitVec.eq_of_toNat_eq
  rw [fieldNn_toNat, word_xnn_toNat]
  omega

/-- The low nibble of a word whose low byte is given as one field. -/
theorem fieldN_xnn : (fieldN (f ++ x ++ nn)).toNat = nn.toNat % 16 := by
  rw [fieldN_toNat, word_xnn_toNat]
  omega

@[simp] theorem fieldFamily_xyn : fieldFamily (f ++ x ++ y ++ n) = f := by
  have := x.isLt; have := y.isLt; have := n.isLt
  apply BitVec.eq_of_toNat_eq
  rw [fieldFamily_toNat, word_xyn_toNat]
  omega

@[simp] theorem fieldX_xyn : fieldX (f ++ x ++ y ++ n) = x := by
  have := x.isLt; have := y.isLt; have := n.isLt
  apply BitVec.eq_of_toNat_eq
  rw [fieldX_toNat, word_xyn_toNat]
  omega

@[simp] theorem fieldY_xyn : fieldY (f ++ x ++ y ++ n) = y := by
  have := y.isLt; have := n.isLt
  apply BitVec.eq_of_toNat_eq
  rw [fieldY_toNat, word_xyn_toNat]
  omega

@[simp] theorem fieldN_xyn : fieldN (f ++ x ++ y ++ n) = n := by
  have := n.isLt
  apply BitVec.eq_of_toNat_eq
  rw [fieldN_toNat, word_xyn_toNat]
  omega

/-- The two bytes of a word, put together again in memory order, are the word. -/
@[simp] theorem assembleWord_bytes (w : Word) : assembleWord (highByte w) (lowByte w) = w := by
  apply BitVec.eq_of_toNat_eq
  rw [assembleWord_toNat, highByte_toNat, lowByte_toNat]
  omega

end words

end Sys2Proof
end

