-- ==== Sys2Proof/Laws/Memory.lean ====
section
/-! SUPPORT. The laws of memory: reading after writing (20_memory.md R67), and that every memory operation keeps the
canonical form. -/

namespace Sys2Proof.Machine.Memory

@[simp] theorem read_nil (a : Nat) : Memory.read [] a = unlisted a := rfl

theorem read_cons (k : Nat) (b : Byte) (rest : Memory) (a : Nat) :
    Memory.read ((k, b) :: rest) a = if k = a then b else Memory.read rest a := rfl

/-- An address below every listed one reads as unlisted. -/
theorem read_of_below {m : Memory} {a : Nat} (h : ∀ c ∈ m, a < c.1) : m.read a = unlisted a := by
  induction m with
  | nil => rfl
  | cons c rest ih =>
    have hc := h c (by simp)
    rw [read_cons, if_neg (by omega), ih fun d hd => h d (by simp [hd])]

/-- What a canonical, non-empty memory says of its parts. -/
theorem wf_cons {k : Nat} {b : Byte} {rest : Memory} :
    Memory.wf ((k, b) :: rest) = true ↔
      k < Config.memSize ∧ b ≠ unlisted k ∧ (∀ c ∈ rest, k < c.1) ∧ Memory.wf rest = true := by
  simp [Memory.wf, and_assoc]

theorem read_cell_append (a x : Nat) (b : Byte) (rest : Memory) :
    Memory.read (cell a b ++ rest) x =
      if a = x then (if b = unlisted a then Memory.read rest x else b) else Memory.read rest x := by
  unfold cell
  split <;> simp [read_cons]

/-- R67: reading any address after a write gives the byte written there, and what was there before elsewhere. -/
theorem read_write {m : Memory} (hm : m.wf = true) (a x : Nat) (b : Byte) :
    (m.write a b).read x = if x = a then b else m.read x := by
  induction m with
  | nil =>
    have h := read_cell_append a x b []
    simp only [List.append_nil] at h
    rw [Memory.write, h]
    by_cases hax : a = x
    · subst hax
      by_cases hb : b = unlisted a <;> simp [hb]
    · simp [hax, Ne.symm hax]
  | cons c rest ih =>
    obtain ⟨k, d⟩ := c
    obtain ⟨-, -, hlt, hrest⟩ := wf_cons.1 hm
    rw [Memory.write]
    split
    · next hak =>
      rw [read_cell_append]
      by_cases hax : a = x
      · subst hax
        have hbelow : Memory.read ((k, d) :: rest) a = unlisted a := by
          apply read_of_below
          intro e he
          rcases List.mem_cons.1 he with rfl | he
          · exact hak
          · exact lt_trans hak (hlt e he)
        by_cases hb : b = unlisted a
        · simp [hb, hbelow]
        · simp [hb]
      · simp [hax, Ne.symm hax]
    · split
      · next hak =>
        subst hak
        rw [read_cell_append, read_cons]
        by_cases hax : a = x
        · subst hax
          by_cases hb : b = unlisted a
          · simp [hb, read_of_below hlt]
          · simp [hb]
        · simp [hax, Ne.symm hax]
      · next hka hne =>
        rw [read_cons, read_cons, ih hrest]
        by_cases hkx : k = x
        · subst hkx
          simp [Ne.symm hne]
        · simp [hkx]

/-- A cell list holds at most its own address. -/
theorem mem_cell {a : Nat} {b : Byte} {c : Host.Cell} (h : c ∈ cell a b) : c = (a, b) ∧ b ≠ unlisted a := by
  unfold cell at h
  split at h
  · simp at h
  · next hb => exact ⟨by simpa using h, hb⟩

theorem wf_cell_append {a : Nat} {b : Byte} {rest : Memory} (ha : a < Config.memSize)
    (hlt : ∀ c ∈ rest, a < c.1) (hrest : Memory.wf rest = true) : Memory.wf (cell a b ++ rest) = true := by
  unfold cell
  split
  · simpa using hrest
  · next hb => exact wf_cons.2 ⟨ha, hb, hlt, hrest⟩

theorem mem_write {m : Memory} {a : Nat} {b : Byte} {c : Host.Cell} (h : c ∈ m.write a b) : c.1 = a ∨ c ∈ m := by
  induction m with
  | nil => exact .inl (by simp [(mem_cell h).1])
  | cons d rest ih =>
    obtain ⟨k, e⟩ := d
    rw [Memory.write] at h
    split at h
    · rcases List.mem_append.1 h with h | h
      · exact .inl (by simp [(mem_cell h).1])
      · exact .inr h
    · split at h
      · rcases List.mem_append.1 h with h | h
        · exact .inl (by simp [(mem_cell h).1])
        · exact .inr (by simp [h])
      · rcases List.mem_cons.1 h with rfl | h
        · exact .inr (by simp)
        · rcases ih h with h | h
          · exact .inl h
          · exact .inr (by simp [h])

/-- A write inside the address space keeps the canonical form. -/
theorem wf_write {m : Memory} {a : Nat} {b : Byte} (ha : a < Config.memSize) (hm : m.wf = true) :
    (m.write a b).wf = true := by
  induction m with
  | nil => simpa [Memory.write] using wf_cell_append (rest := []) (b := b) ha (by simp) rfl
  | cons c rest ih =>
    obtain ⟨k, d⟩ := c
    obtain ⟨hk, hd, hlt, hrest⟩ := wf_cons.1 hm
    rw [Memory.write]
    split
    · next hak =>
      refine wf_cell_append ha ?_ hm
      intro e he
      rcases List.mem_cons.1 he with rfl | he
      · exact hak
      · exact lt_trans hak (hlt e he)
    · split
      · next hak => exact wf_cell_append ha (hak ▸ hlt) hrest
      · next hka hne =>
        refine wf_cons.2 ⟨hk, hd, ?_, ih hrest⟩
        intro e he
        rcases mem_write he with h | h
        · omega
        · exact hlt e h

/-- A block write inside the address space keeps the canonical form. -/
theorem wf_writeBytes {m : Memory} {a : Nat} {bs : List Byte} (ha : a + bs.length ≤ Config.memSize)
    (hm : m.wf = true) : (m.writeBytes a bs).wf = true := by
  induction bs generalizing m a with
  | nil => exact hm
  | cons b rest ih =>
    simp only [List.length_cons] at ha
    exact ih (by omega) (wf_write (by omega) hm)

/-- Reading any address after a block write: the block's byte inside it, what was there before outside it. -/
theorem read_writeBytes {m : Memory} {a : Nat} {bs : List Byte} (ha : a + bs.length ≤ Config.memSize)
    (hm : m.wf = true) (x : Nat) :
    (m.writeBytes a bs).read x = if a ≤ x then bs.getD (x - a) (m.read x) else m.read x := by
  induction bs generalizing m a with
  | nil => simp [Memory.writeBytes]
  | cons b rest ih =>
    simp only [List.length_cons] at ha
    rw [Memory.writeBytes, ih (by omega) (wf_write (by omega) hm), read_write hm]
    by_cases hax : a = x
    · subst hax
      simp
    · by_cases hlt : a < x
      · obtain ⟨d, rfl⟩ : ∃ d, x = a + 1 + d := ⟨x - (a + 1), by omega⟩
        have h1 : a + 1 + d - (a + 1) = d := by omega
        have h2 : a + 1 + d - a = d + 1 := by omega
        have h3 : a + 1 + d ≠ a := by omega
        simp [h1, h2, h3, show a ≤ a + 1 + d by omega]
      · simp [show ¬ a ≤ x by omega, show ¬ a + 1 ≤ x by omega, Ne.symm hax]

/-- A write leaves every other address alone, in any memory. -/
theorem read_write_other (m : Memory) {a x : Nat} (b : Byte) (hx : x ≠ a) : (m.write a b).read x = m.read x := by
  have hax : ¬ a = x := fun h => hx h.symm
  induction m with
  | nil => simpa [Memory.write, hax] using read_cell_append a x b []
  | cons c rest ih =>
    obtain ⟨k, d⟩ := c
    rw [Memory.write]
    split
    · rw [read_cell_append, if_neg hax]
    · split
      · next hak =>
        subst hak
        rw [read_cell_append, read_cons, if_neg hax, if_neg hax]
      · rw [read_cons, read_cons, ih]

/-- A block write leaves every address outside the block alone, in any memory. -/
theorem read_writeBytes_outside (m : Memory) {a x : Nat} (bs : List Byte) (hx : x < a ∨ a + bs.length ≤ x) :
    (m.writeBytes a bs).read x = m.read x := by
  induction bs generalizing m a with
  | nil => rfl
  | cons b rest ih =>
    simp only [List.length_cons] at hx
    rw [Memory.writeBytes, ih _ (by omega), read_write_other _ _ (by omega)]

@[simp] theorem length_readBytes (m : Memory) (a n : Nat) : (m.readBytes a n).length = n := by
  simp [Memory.readBytes]

@[simp] theorem getElem_readBytes (m : Memory) (a n k : Nat) (h : k < (m.readBytes a n).length) :
    (m.readBytes a n)[k] = m.read (a + k) := by
  simp [Memory.readBytes]

end Sys2Proof.Machine.Memory
end

