-- ==== Sys2Proof/Laws/State.lean ====
section
/-! SUPPORT. One lemma per field of State per update of State, each true by unfolding, so that no later proof unfolds a
record update; and what reading a register gives after an update. -/

namespace Sys2Proof.Machine.State

variable (s : State)

@[simp] theorem setReg_mem (x : Nibble) (b : Byte) : (s.setReg x b).mem = s.mem := rfl
@[simp] theorem setReg_v (x : Nibble) (b : Byte) : (s.setReg x b).v = s.v.set x.toNat b x.isLt := rfl
@[simp] theorem setReg_i (x : Nibble) (b : Byte) : (s.setReg x b).i = s.i := rfl
@[simp] theorem setReg_pc (x : Nibble) (b : Byte) : (s.setReg x b).pc = s.pc := rfl
@[simp] theorem setReg_sp (x : Nibble) (b : Byte) : (s.setReg x b).sp = s.sp := rfl
@[simp] theorem setReg_stack (x : Nibble) (b : Byte) : (s.setReg x b).stack = s.stack := rfl
@[simp] theorem setReg_dt (x : Nibble) (b : Byte) : (s.setReg x b).dt = s.dt := rfl
@[simp] theorem setReg_st (x : Nibble) (b : Byte) : (s.setReg x b).st = s.st := rfl
@[simp] theorem setReg_fb (x : Nibble) (b : Byte) : (s.setReg x b).fb = s.fb := rfl
@[simp] theorem setReg_run (x : Nibble) (b : Byte) : (s.setReg x b).run = s.run := rfl
@[simp] theorem setReg_resetAck (x : Nibble) (b : Byte) : (s.setReg x b).resetAck = s.resetAck := rfl
@[simp] theorem setReg_drawEvents (x : Nibble) (b : Byte) : (s.setReg x b).drawEvents = s.drawEvents := rfl
@[simp] theorem setReg_font (x : Nibble) (b : Byte) : (s.setReg x b).font = s.font := rfl
@[simp] theorem setReg_events (x : Nibble) (b : Byte) : (s.setReg x b).events = s.events := rfl
@[simp] theorem setReg_rndPlan (x : Nibble) (b : Byte) : (s.setReg x b).rndPlan = s.rndPlan := rfl
@[simp] theorem setReg_keysPlan (x : Nibble) (b : Byte) : (s.setReg x b).keysPlan = s.keysPlan := rfl
@[simp] theorem setReg_samples (x : Nibble) (b : Byte) : (s.setReg x b).samples = s.samples := rfl

@[simp] theorem setFlag_mem (f : Bool) : (s.setFlag f).mem = s.mem := rfl
@[simp] theorem setFlag_v (f : Bool) : (s.setFlag f).v = s.v.set regVF.toNat (flagByte f) regVF.isLt := rfl
@[simp] theorem setFlag_i (f : Bool) : (s.setFlag f).i = s.i := rfl
@[simp] theorem setFlag_pc (f : Bool) : (s.setFlag f).pc = s.pc := rfl
@[simp] theorem setFlag_sp (f : Bool) : (s.setFlag f).sp = s.sp := rfl
@[simp] theorem setFlag_stack (f : Bool) : (s.setFlag f).stack = s.stack := rfl
@[simp] theorem setFlag_dt (f : Bool) : (s.setFlag f).dt = s.dt := rfl
@[simp] theorem setFlag_st (f : Bool) : (s.setFlag f).st = s.st := rfl
@[simp] theorem setFlag_fb (f : Bool) : (s.setFlag f).fb = s.fb := rfl
@[simp] theorem setFlag_run (f : Bool) : (s.setFlag f).run = s.run := rfl
@[simp] theorem setFlag_resetAck (f : Bool) : (s.setFlag f).resetAck = s.resetAck := rfl
@[simp] theorem setFlag_drawEvents (f : Bool) : (s.setFlag f).drawEvents = s.drawEvents := rfl
@[simp] theorem setFlag_font (f : Bool) : (s.setFlag f).font = s.font := rfl
@[simp] theorem setFlag_events (f : Bool) : (s.setFlag f).events = s.events := rfl
@[simp] theorem setFlag_rndPlan (f : Bool) : (s.setFlag f).rndPlan = s.rndPlan := rfl
@[simp] theorem setFlag_keysPlan (f : Bool) : (s.setFlag f).keysPlan = s.keysPlan := rfl
@[simp] theorem setFlag_samples (f : Bool) : (s.setFlag f).samples = s.samples := rfl

@[simp] theorem setRegs_mem (bs : List Byte) : (s.setRegs bs).mem = s.mem := rfl
@[simp] theorem setRegs_v (bs : List Byte) : (s.setRegs bs).v = regsFrom s.v 0 bs := rfl
@[simp] theorem setRegs_i (bs : List Byte) : (s.setRegs bs).i = s.i := rfl
@[simp] theorem setRegs_pc (bs : List Byte) : (s.setRegs bs).pc = s.pc := rfl
@[simp] theorem setRegs_sp (bs : List Byte) : (s.setRegs bs).sp = s.sp := rfl
@[simp] theorem setRegs_stack (bs : List Byte) : (s.setRegs bs).stack = s.stack := rfl
@[simp] theorem setRegs_dt (bs : List Byte) : (s.setRegs bs).dt = s.dt := rfl
@[simp] theorem setRegs_st (bs : List Byte) : (s.setRegs bs).st = s.st := rfl
@[simp] theorem setRegs_fb (bs : List Byte) : (s.setRegs bs).fb = s.fb := rfl
@[simp] theorem setRegs_run (bs : List Byte) : (s.setRegs bs).run = s.run := rfl
@[simp] theorem setRegs_resetAck (bs : List Byte) : (s.setRegs bs).resetAck = s.resetAck := rfl
@[simp] theorem setRegs_drawEvents (bs : List Byte) : (s.setRegs bs).drawEvents = s.drawEvents := rfl
@[simp] theorem setRegs_font (bs : List Byte) : (s.setRegs bs).font = s.font := rfl
@[simp] theorem setRegs_events (bs : List Byte) : (s.setRegs bs).events = s.events := rfl
@[simp] theorem setRegs_rndPlan (bs : List Byte) : (s.setRegs bs).rndPlan = s.rndPlan := rfl
@[simp] theorem setRegs_keysPlan (bs : List Byte) : (s.setRegs bs).keysPlan = s.keysPlan := rfl
@[simp] theorem setRegs_samples (bs : List Byte) : (s.setRegs bs).samples = s.samples := rfl

@[simp] theorem setI_mem (w : Word) : (s.setI w).mem = s.mem := rfl
@[simp] theorem setI_v (w : Word) : (s.setI w).v = s.v := rfl
@[simp] theorem setI_i (w : Word) : (s.setI w).i = w := rfl
@[simp] theorem setI_pc (w : Word) : (s.setI w).pc = s.pc := rfl
@[simp] theorem setI_sp (w : Word) : (s.setI w).sp = s.sp := rfl
@[simp] theorem setI_stack (w : Word) : (s.setI w).stack = s.stack := rfl
@[simp] theorem setI_dt (w : Word) : (s.setI w).dt = s.dt := rfl
@[simp] theorem setI_st (w : Word) : (s.setI w).st = s.st := rfl
@[simp] theorem setI_fb (w : Word) : (s.setI w).fb = s.fb := rfl
@[simp] theorem setI_run (w : Word) : (s.setI w).run = s.run := rfl
@[simp] theorem setI_resetAck (w : Word) : (s.setI w).resetAck = s.resetAck := rfl
@[simp] theorem setI_drawEvents (w : Word) : (s.setI w).drawEvents = s.drawEvents := rfl
@[simp] theorem setI_font (w : Word) : (s.setI w).font = s.font := rfl
@[simp] theorem setI_events (w : Word) : (s.setI w).events = s.events := rfl
@[simp] theorem setI_rndPlan (w : Word) : (s.setI w).rndPlan = s.rndPlan := rfl
@[simp] theorem setI_keysPlan (w : Word) : (s.setI w).keysPlan = s.keysPlan := rfl
@[simp] theorem setI_samples (w : Word) : (s.setI w).samples = s.samples := rfl

@[simp] theorem setPc_mem (w : Word) : (s.setPc w).mem = s.mem := rfl
@[simp] theorem setPc_v (w : Word) : (s.setPc w).v = s.v := rfl
@[simp] theorem setPc_i (w : Word) : (s.setPc w).i = s.i := rfl
@[simp] theorem setPc_pc (w : Word) : (s.setPc w).pc = w := rfl
@[simp] theorem setPc_sp (w : Word) : (s.setPc w).sp = s.sp := rfl
@[simp] theorem setPc_stack (w : Word) : (s.setPc w).stack = s.stack := rfl
@[simp] theorem setPc_dt (w : Word) : (s.setPc w).dt = s.dt := rfl
@[simp] theorem setPc_st (w : Word) : (s.setPc w).st = s.st := rfl
@[simp] theorem setPc_fb (w : Word) : (s.setPc w).fb = s.fb := rfl
@[simp] theorem setPc_run (w : Word) : (s.setPc w).run = s.run := rfl
@[simp] theorem setPc_resetAck (w : Word) : (s.setPc w).resetAck = s.resetAck := rfl
@[simp] theorem setPc_drawEvents (w : Word) : (s.setPc w).drawEvents = s.drawEvents := rfl
@[simp] theorem setPc_font (w : Word) : (s.setPc w).font = s.font := rfl
@[simp] theorem setPc_events (w : Word) : (s.setPc w).events = s.events := rfl
@[simp] theorem setPc_rndPlan (w : Word) : (s.setPc w).rndPlan = s.rndPlan := rfl
@[simp] theorem setPc_keysPlan (w : Word) : (s.setPc w).keysPlan = s.keysPlan := rfl
@[simp] theorem setPc_samples (w : Word) : (s.setPc w).samples = s.samples := rfl

@[simp] theorem advance_mem : s.advance.mem = s.mem := rfl
@[simp] theorem advance_v : s.advance.v = s.v := rfl
@[simp] theorem advance_i : s.advance.i = s.i := rfl
@[simp] theorem advance_pc : s.advance.pc = s.pc + 2 := rfl
@[simp] theorem advance_sp : s.advance.sp = s.sp := rfl
@[simp] theorem advance_stack : s.advance.stack = s.stack := rfl
@[simp] theorem advance_dt : s.advance.dt = s.dt := rfl
@[simp] theorem advance_st : s.advance.st = s.st := rfl
@[simp] theorem advance_fb : s.advance.fb = s.fb := rfl
@[simp] theorem advance_run : s.advance.run = s.run := rfl
@[simp] theorem advance_resetAck : s.advance.resetAck = s.resetAck := rfl
@[simp] theorem advance_drawEvents : s.advance.drawEvents = s.drawEvents := rfl
@[simp] theorem advance_font : s.advance.font = s.font := rfl
@[simp] theorem advance_events : s.advance.events = s.events := rfl
@[simp] theorem advance_rndPlan : s.advance.rndPlan = s.rndPlan := rfl
@[simp] theorem advance_keysPlan : s.advance.keysPlan = s.keysPlan := rfl
@[simp] theorem advance_samples : s.advance.samples = s.samples := rfl

@[simp] theorem skipIf_mem (c : Bool) : (s.skipIf c).mem = s.mem := rfl
@[simp] theorem skipIf_v (c : Bool) : (s.skipIf c).v = s.v := rfl
@[simp] theorem skipIf_i (c : Bool) : (s.skipIf c).i = s.i := rfl
@[simp] theorem skipIf_pc (c : Bool) : (s.skipIf c).pc = if c then s.pc + 4 else s.pc + 2 := rfl
@[simp] theorem skipIf_sp (c : Bool) : (s.skipIf c).sp = s.sp := rfl
@[simp] theorem skipIf_stack (c : Bool) : (s.skipIf c).stack = s.stack := rfl
@[simp] theorem skipIf_dt (c : Bool) : (s.skipIf c).dt = s.dt := rfl
@[simp] theorem skipIf_st (c : Bool) : (s.skipIf c).st = s.st := rfl
@[simp] theorem skipIf_fb (c : Bool) : (s.skipIf c).fb = s.fb := rfl
@[simp] theorem skipIf_run (c : Bool) : (s.skipIf c).run = s.run := rfl
@[simp] theorem skipIf_resetAck (c : Bool) : (s.skipIf c).resetAck = s.resetAck := rfl
@[simp] theorem skipIf_drawEvents (c : Bool) : (s.skipIf c).drawEvents = s.drawEvents := rfl
@[simp] theorem skipIf_font (c : Bool) : (s.skipIf c).font = s.font := rfl
@[simp] theorem skipIf_events (c : Bool) : (s.skipIf c).events = s.events := rfl
@[simp] theorem skipIf_rndPlan (c : Bool) : (s.skipIf c).rndPlan = s.rndPlan := rfl
@[simp] theorem skipIf_keysPlan (c : Bool) : (s.skipIf c).keysPlan = s.keysPlan := rfl
@[simp] theorem skipIf_samples (c : Bool) : (s.skipIf c).samples = s.samples := rfl

@[simp] theorem setDt_mem (b : Byte) : (s.setDt b).mem = s.mem := rfl
@[simp] theorem setDt_v (b : Byte) : (s.setDt b).v = s.v := rfl
@[simp] theorem setDt_i (b : Byte) : (s.setDt b).i = s.i := rfl
@[simp] theorem setDt_pc (b : Byte) : (s.setDt b).pc = s.pc := rfl
@[simp] theorem setDt_sp (b : Byte) : (s.setDt b).sp = s.sp := rfl
@[simp] theorem setDt_stack (b : Byte) : (s.setDt b).stack = s.stack := rfl
@[simp] theorem setDt_dt (b : Byte) : (s.setDt b).dt = b := rfl
@[simp] theorem setDt_st (b : Byte) : (s.setDt b).st = s.st := rfl
@[simp] theorem setDt_fb (b : Byte) : (s.setDt b).fb = s.fb := rfl
@[simp] theorem setDt_run (b : Byte) : (s.setDt b).run = s.run := rfl
@[simp] theorem setDt_resetAck (b : Byte) : (s.setDt b).resetAck = s.resetAck := rfl
@[simp] theorem setDt_drawEvents (b : Byte) : (s.setDt b).drawEvents = s.drawEvents := rfl
@[simp] theorem setDt_font (b : Byte) : (s.setDt b).font = s.font := rfl
@[simp] theorem setDt_events (b : Byte) : (s.setDt b).events = s.events := rfl
@[simp] theorem setDt_rndPlan (b : Byte) : (s.setDt b).rndPlan = s.rndPlan := rfl
@[simp] theorem setDt_keysPlan (b : Byte) : (s.setDt b).keysPlan = s.keysPlan := rfl
@[simp] theorem setDt_samples (b : Byte) : (s.setDt b).samples = s.samples := rfl

@[simp] theorem setSt_mem (b : Byte) : (s.setSt b).mem = s.mem := rfl
@[simp] theorem setSt_v (b : Byte) : (s.setSt b).v = s.v := rfl
@[simp] theorem setSt_i (b : Byte) : (s.setSt b).i = s.i := rfl
@[simp] theorem setSt_pc (b : Byte) : (s.setSt b).pc = s.pc := rfl
@[simp] theorem setSt_sp (b : Byte) : (s.setSt b).sp = s.sp := rfl
@[simp] theorem setSt_stack (b : Byte) : (s.setSt b).stack = s.stack := rfl
@[simp] theorem setSt_dt (b : Byte) : (s.setSt b).dt = s.dt := rfl
@[simp] theorem setSt_st (b : Byte) : (s.setSt b).st = b := rfl
@[simp] theorem setSt_fb (b : Byte) : (s.setSt b).fb = s.fb := rfl
@[simp] theorem setSt_run (b : Byte) : (s.setSt b).run = s.run := rfl
@[simp] theorem setSt_resetAck (b : Byte) : (s.setSt b).resetAck = s.resetAck := rfl
@[simp] theorem setSt_drawEvents (b : Byte) : (s.setSt b).drawEvents = s.drawEvents := rfl
@[simp] theorem setSt_font (b : Byte) : (s.setSt b).font = s.font := rfl
@[simp] theorem setSt_events (b : Byte) : (s.setSt b).events = s.events := rfl
@[simp] theorem setSt_rndPlan (b : Byte) : (s.setSt b).rndPlan = s.rndPlan := rfl
@[simp] theorem setSt_keysPlan (b : Byte) : (s.setSt b).keysPlan = s.keysPlan := rfl
@[simp] theorem setSt_samples (b : Byte) : (s.setSt b).samples = s.samples := rfl

@[simp] theorem setFb_mem (f : Framebuffer) : (s.setFb f).mem = s.mem := rfl
@[simp] theorem setFb_v (f : Framebuffer) : (s.setFb f).v = s.v := rfl
@[simp] theorem setFb_i (f : Framebuffer) : (s.setFb f).i = s.i := rfl
@[simp] theorem setFb_pc (f : Framebuffer) : (s.setFb f).pc = s.pc := rfl
@[simp] theorem setFb_sp (f : Framebuffer) : (s.setFb f).sp = s.sp := rfl
@[simp] theorem setFb_stack (f : Framebuffer) : (s.setFb f).stack = s.stack := rfl
@[simp] theorem setFb_dt (f : Framebuffer) : (s.setFb f).dt = s.dt := rfl
@[simp] theorem setFb_st (f : Framebuffer) : (s.setFb f).st = s.st := rfl
@[simp] theorem setFb_fb (f : Framebuffer) : (s.setFb f).fb = f := rfl
@[simp] theorem setFb_run (f : Framebuffer) : (s.setFb f).run = s.run := rfl
@[simp] theorem setFb_resetAck (f : Framebuffer) : (s.setFb f).resetAck = s.resetAck := rfl
@[simp] theorem setFb_drawEvents (f : Framebuffer) : (s.setFb f).drawEvents = s.drawEvents := rfl
@[simp] theorem setFb_font (f : Framebuffer) : (s.setFb f).font = s.font := rfl
@[simp] theorem setFb_events (f : Framebuffer) : (s.setFb f).events = s.events := rfl
@[simp] theorem setFb_rndPlan (f : Framebuffer) : (s.setFb f).rndPlan = s.rndPlan := rfl
@[simp] theorem setFb_keysPlan (f : Framebuffer) : (s.setFb f).keysPlan = s.keysPlan := rfl
@[simp] theorem setFb_samples (f : Framebuffer) : (s.setFb f).samples = s.samples := rfl

@[simp] theorem setRun_mem (q : RunState) : (s.setRun q).mem = s.mem := rfl
@[simp] theorem setRun_v (q : RunState) : (s.setRun q).v = s.v := rfl
@[simp] theorem setRun_i (q : RunState) : (s.setRun q).i = s.i := rfl
@[simp] theorem setRun_pc (q : RunState) : (s.setRun q).pc = s.pc := rfl
@[simp] theorem setRun_sp (q : RunState) : (s.setRun q).sp = s.sp := rfl
@[simp] theorem setRun_stack (q : RunState) : (s.setRun q).stack = s.stack := rfl
@[simp] theorem setRun_dt (q : RunState) : (s.setRun q).dt = s.dt := rfl
@[simp] theorem setRun_st (q : RunState) : (s.setRun q).st = s.st := rfl
@[simp] theorem setRun_fb (q : RunState) : (s.setRun q).fb = s.fb := rfl
@[simp] theorem setRun_run (q : RunState) : (s.setRun q).run = q := rfl
@[simp] theorem setRun_resetAck (q : RunState) : (s.setRun q).resetAck = s.resetAck := rfl
@[simp] theorem setRun_drawEvents (q : RunState) : (s.setRun q).drawEvents = s.drawEvents := rfl
@[simp] theorem setRun_font (q : RunState) : (s.setRun q).font = s.font := rfl
@[simp] theorem setRun_events (q : RunState) : (s.setRun q).events = s.events := rfl
@[simp] theorem setRun_rndPlan (q : RunState) : (s.setRun q).rndPlan = s.rndPlan := rfl
@[simp] theorem setRun_keysPlan (q : RunState) : (s.setRun q).keysPlan = s.keysPlan := rfl
@[simp] theorem setRun_samples (q : RunState) : (s.setRun q).samples = s.samples := rfl

@[simp] theorem emitDraw_mem : s.emitDraw.mem = s.mem := rfl
@[simp] theorem emitDraw_v : s.emitDraw.v = s.v := rfl
@[simp] theorem emitDraw_i : s.emitDraw.i = s.i := rfl
@[simp] theorem emitDraw_pc : s.emitDraw.pc = s.pc := rfl
@[simp] theorem emitDraw_sp : s.emitDraw.sp = s.sp := rfl
@[simp] theorem emitDraw_stack : s.emitDraw.stack = s.stack := rfl
@[simp] theorem emitDraw_dt : s.emitDraw.dt = s.dt := rfl
@[simp] theorem emitDraw_st : s.emitDraw.st = s.st := rfl
@[simp] theorem emitDraw_fb : s.emitDraw.fb = s.fb := rfl
@[simp] theorem emitDraw_run : s.emitDraw.run = s.run := rfl
@[simp] theorem emitDraw_resetAck : s.emitDraw.resetAck = s.resetAck := rfl
@[simp] theorem emitDraw_drawEvents : s.emitDraw.drawEvents = s.drawEvents + 1 := rfl
@[simp] theorem emitDraw_font : s.emitDraw.font = s.font := rfl
@[simp] theorem emitDraw_events : s.emitDraw.events = s.events := rfl
@[simp] theorem emitDraw_rndPlan : s.emitDraw.rndPlan = s.rndPlan := rfl
@[simp] theorem emitDraw_keysPlan : s.emitDraw.keysPlan = s.keysPlan := rfl
@[simp] theorem emitDraw_samples : s.emitDraw.samples = s.samples := rfl

@[simp] theorem afterRndSample_mem : s.afterRndSample.mem = s.mem := rfl
@[simp] theorem afterRndSample_v : s.afterRndSample.v = s.v := rfl
@[simp] theorem afterRndSample_i : s.afterRndSample.i = s.i := rfl
@[simp] theorem afterRndSample_pc : s.afterRndSample.pc = s.pc := rfl
@[simp] theorem afterRndSample_sp : s.afterRndSample.sp = s.sp := rfl
@[simp] theorem afterRndSample_stack : s.afterRndSample.stack = s.stack := rfl
@[simp] theorem afterRndSample_dt : s.afterRndSample.dt = s.dt := rfl
@[simp] theorem afterRndSample_st : s.afterRndSample.st = s.st := rfl
@[simp] theorem afterRndSample_fb : s.afterRndSample.fb = s.fb := rfl
@[simp] theorem afterRndSample_run : s.afterRndSample.run = s.run := rfl
@[simp] theorem afterRndSample_resetAck : s.afterRndSample.resetAck = s.resetAck := rfl
@[simp] theorem afterRndSample_drawEvents : s.afterRndSample.drawEvents = s.drawEvents := rfl
@[simp] theorem afterRndSample_font : s.afterRndSample.font = s.font := rfl
@[simp] theorem afterRndSample_events : s.afterRndSample.events = s.events := rfl
@[simp] theorem afterRndSample_rndPlan : s.afterRndSample.rndPlan = s.rndPlan.tail := rfl
@[simp] theorem afterRndSample_keysPlan : s.afterRndSample.keysPlan = s.keysPlan := rfl
@[simp] theorem afterRndSample_samples : s.afterRndSample.samples = s.samples + 1 := rfl

@[simp] theorem afterKeysSample_mem : s.afterKeysSample.mem = s.mem := rfl
@[simp] theorem afterKeysSample_v : s.afterKeysSample.v = s.v := rfl
@[simp] theorem afterKeysSample_i : s.afterKeysSample.i = s.i := rfl
@[simp] theorem afterKeysSample_pc : s.afterKeysSample.pc = s.pc := rfl
@[simp] theorem afterKeysSample_sp : s.afterKeysSample.sp = s.sp := rfl
@[simp] theorem afterKeysSample_stack : s.afterKeysSample.stack = s.stack := rfl
@[simp] theorem afterKeysSample_dt : s.afterKeysSample.dt = s.dt := rfl
@[simp] theorem afterKeysSample_st : s.afterKeysSample.st = s.st := rfl
@[simp] theorem afterKeysSample_fb : s.afterKeysSample.fb = s.fb := rfl
@[simp] theorem afterKeysSample_run : s.afterKeysSample.run = s.run := rfl
@[simp] theorem afterKeysSample_resetAck : s.afterKeysSample.resetAck = s.resetAck := rfl
@[simp] theorem afterKeysSample_drawEvents : s.afterKeysSample.drawEvents = s.drawEvents := rfl
@[simp] theorem afterKeysSample_font : s.afterKeysSample.font = s.font := rfl
@[simp] theorem afterKeysSample_events : s.afterKeysSample.events = s.events := rfl
@[simp] theorem afterKeysSample_rndPlan : s.afterKeysSample.rndPlan = s.rndPlan := rfl
@[simp] theorem afterKeysSample_keysPlan : s.afterKeysSample.keysPlan = s.keysPlan.tail := rfl
@[simp] theorem afterKeysSample_samples : s.afterKeysSample.samples = s.samples + 1 := rfl

@[simp] theorem faultedAt_mem (c : Cause) (w : Word) : (s.faultedAt c w).mem = s.mem := rfl
@[simp] theorem faultedAt_v (c : Cause) (w : Word) : (s.faultedAt c w).v = s.v := rfl
@[simp] theorem faultedAt_i (c : Cause) (w : Word) : (s.faultedAt c w).i = s.i := rfl
@[simp] theorem faultedAt_pc (c : Cause) (w : Word) : (s.faultedAt c w).pc = s.pc := rfl
@[simp] theorem faultedAt_sp (c : Cause) (w : Word) : (s.faultedAt c w).sp = s.sp := rfl
@[simp] theorem faultedAt_stack (c : Cause) (w : Word) : (s.faultedAt c w).stack = s.stack := rfl
@[simp] theorem faultedAt_dt (c : Cause) (w : Word) : (s.faultedAt c w).dt = s.dt := rfl
@[simp] theorem faultedAt_st (c : Cause) (w : Word) : (s.faultedAt c w).st = s.st := rfl
@[simp] theorem faultedAt_fb (c : Cause) (w : Word) : (s.faultedAt c w).fb = s.fb := rfl
@[simp] theorem faultedAt_run (c : Cause) (w : Word) : (s.faultedAt c w).run = .faulted c s.pc w := rfl
@[simp] theorem faultedAt_resetAck (c : Cause) (w : Word) : (s.faultedAt c w).resetAck = s.resetAck := rfl
@[simp] theorem faultedAt_drawEvents (c : Cause) (w : Word) : (s.faultedAt c w).drawEvents = s.drawEvents := rfl
@[simp] theorem faultedAt_font (c : Cause) (w : Word) : (s.faultedAt c w).font = s.font := rfl
@[simp] theorem faultedAt_events (c : Cause) (w : Word) : (s.faultedAt c w).events = s.events := rfl
@[simp] theorem faultedAt_rndPlan (c : Cause) (w : Word) : (s.faultedAt c w).rndPlan = s.rndPlan := rfl
@[simp] theorem faultedAt_keysPlan (c : Cause) (w : Word) : (s.faultedAt c w).keysPlan = s.keysPlan := rfl
@[simp] theorem faultedAt_samples (c : Cause) (w : Word) : (s.faultedAt c w).samples = s.samples := rfl

@[simp] theorem takeEvent_mem : s.takeEvent.mem = s.mem := rfl
@[simp] theorem takeEvent_v : s.takeEvent.v = s.v := rfl
@[simp] theorem takeEvent_i : s.takeEvent.i = s.i := rfl
@[simp] theorem takeEvent_pc : s.takeEvent.pc = s.pc := rfl
@[simp] theorem takeEvent_sp : s.takeEvent.sp = s.sp := rfl
@[simp] theorem takeEvent_stack : s.takeEvent.stack = s.stack := rfl
@[simp] theorem takeEvent_dt : s.takeEvent.dt = s.dt := rfl
@[simp] theorem takeEvent_st : s.takeEvent.st = s.st := rfl
@[simp] theorem takeEvent_fb : s.takeEvent.fb = s.fb := rfl
@[simp] theorem takeEvent_run : s.takeEvent.run = s.run := rfl
@[simp] theorem takeEvent_resetAck : s.takeEvent.resetAck = s.resetAck := rfl
@[simp] theorem takeEvent_drawEvents : s.takeEvent.drawEvents = s.drawEvents := rfl
@[simp] theorem takeEvent_font : s.takeEvent.font = s.font := rfl
@[simp] theorem takeEvent_events : s.takeEvent.events = s.events.tail := rfl
@[simp] theorem takeEvent_rndPlan : s.takeEvent.rndPlan = s.rndPlan := rfl
@[simp] theorem takeEvent_keysPlan : s.takeEvent.keysPlan = s.keysPlan := rfl
@[simp] theorem takeEvent_samples : s.takeEvent.samples = s.samples := rfl

/-- A register after a write: the value written at the register written, the old value elsewhere. -/
@[simp] theorem reg_setReg (x r : Nibble) (b : Byte) :
    (s.setReg x b).reg r = if r = x then b else s.reg r := by
  simp only [reg, setReg_v, Vector.getElem_set, BitVec.toNat_eq, eq_comm (a := x.toNat)]

/-- A register after the flag is written. -/
@[simp] theorem reg_setFlag (r : Nibble) (f : Bool) :
    (s.setFlag f).reg r = if r = regVF then flagByte f else s.reg r := reg_setReg s regVF r (flagByte f)

@[simp] theorem reg_setI (r : Nibble) (w : Word) : (s.setI w).reg r = s.reg r := rfl
@[simp] theorem reg_setPc (r : Nibble) (w : Word) : (s.setPc w).reg r = s.reg r := rfl
@[simp] theorem reg_advance (r : Nibble) : s.advance.reg r = s.reg r := rfl
@[simp] theorem reg_skipIf (r : Nibble) (c : Bool) : (s.skipIf c).reg r = s.reg r := rfl
@[simp] theorem reg_setDt (r : Nibble) (b : Byte) : (s.setDt b).reg r = s.reg r := rfl
@[simp] theorem reg_setSt (r : Nibble) (b : Byte) : (s.setSt b).reg r = s.reg r := rfl
@[simp] theorem reg_setFb (r : Nibble) (f : Framebuffer) : (s.setFb f).reg r = s.reg r := rfl
@[simp] theorem reg_setRun (r : Nibble) (q : RunState) : (s.setRun q).reg r = s.reg r := rfl
@[simp] theorem reg_emitDraw (r : Nibble) : s.emitDraw.reg r = s.reg r := rfl
@[simp] theorem reg_afterRndSample (r : Nibble) : s.afterRndSample.reg r = s.reg r := rfl
@[simp] theorem reg_afterKeysSample (r : Nibble) : s.afterKeysSample.reg r = s.reg r := rfl
@[simp] theorem reg_faultedAt (r : Nibble) (c : Cause) (w : Word) : (s.faultedAt c w).reg r = s.reg r := rfl
@[simp] theorem reg_takeEvent (r : Nibble) : s.takeEvent.reg r = s.reg r := rfl

/-- Two register files that agree on every register are equal. -/
theorem v_ext (t : State) (h : ∀ r, t.reg r = s.reg r) : t.v = s.v := by
  apply Vector.ext
  intro k hk
  have := h (BitVec.ofNat 4 k)
  simpa [reg, Nat.mod_eq_of_lt hk] using this

end Sys2Proof.Machine.State
end

