-- ==== Sys2Proof/Laws/Ops.lean ====
section
/-! SUPPORT. What each shared operation can do, once each: pushing and popping a return address, the checked block
accesses, the register load, taking a fault, the fetch. -/

namespace Sys2Proof.Machine

/-- A push succeeds exactly below a full stack, and then changes the slot at SP and SP alone. -/
theorem State.push_eq_some (s t : State) (w : Word) :
    s.push w = some t ↔
      ∃ h : s.sp.val < 16,
        t = { s with stack := s.stack.set s.sp.val w h, sp := ⟨s.sp.val + 1, by omega⟩ } := by
  unfold State.push
  split
  · next h => simp [h, eq_comm]
  · next h => simp [h]

theorem State.push_eq_none (s : State) (w : Word) : s.push w = none ↔ s.sp.val = 16 := by
  have := s.sp.isLt
  unfold State.push
  split <;> simp <;> omega

/-- A pop succeeds exactly on a non-empty stack, and then changes SP alone. -/
theorem State.pop_eq_some (s t : State) (w : Word) :
    s.pop = some (w, t) ↔
      ∃ _ : s.sp.val ≠ 0,
        w = s.stack[s.sp.val - 1]'(by omega) ∧ t = { s with sp := ⟨s.sp.val - 1, by omega⟩ } := by
  unfold State.pop
  split
  · next h => simp [h, eq_comm]
  · next h => simp [h]

theorem State.pop_eq_none (s : State) : s.pop = none ↔ s.sp.val = 0 := by
  unfold State.pop
  split <;> simp_all

/-- The range check, as the spec writes it. -/
theorem inMemory_iff (a n : Nat) : inMemory a n = true ↔ n = 0 ∨ a + n ≤ 4096 := by
  simp only [inMemory, Bool.or_eq_true, beq_iff_eq, decide_eq_true_eq]
  rfl

theorem State.loadBytes_eq_some (s : State) (a n : Nat) (bs : List Byte) :
    s.loadBytes a n = some bs ↔ inMemory a n = true ∧ bs = s.mem.readBytes a n := by
  unfold State.loadBytes
  split
  · next h => simp [h, eq_comm]
  · next h => simp [h]

theorem State.loadBytes_eq_none (s : State) (a n : Nat) : s.loadBytes a n = none ↔ inMemory a n = false := by
  unfold State.loadBytes
  split <;> simp_all

theorem State.storeBytes_eq_some (s t : State) (a : Nat) (bs : List Byte) :
    s.storeBytes a bs = some t ↔
      inMemory a bs.length = true ∧ t = { s with mem := s.mem.writeBytes a bs } := by
  unfold State.storeBytes
  split
  · next h => simp [h, eq_comm]
  · next h => simp [h]

theorem State.storeBytes_eq_none (s : State) (a : Nat) (bs : List Byte) :
    s.storeBytes a bs = none ↔ inMemory a bs.length = false := by
  unfold State.storeBytes
  split <;> simp_all

/-- What a checked instruction can answer: the rest of it on what the check gave, or the fault. -/
theorem State.orRaise_eq_next {α : Type} (s t : State) (r : Option α) (c : Cause) (w : Word) (rest : α → Result) :
    s.orRaise r c w rest = .next t ↔
      (∃ a, r = some a ∧ rest a = .next t) ∨ (r = none ∧ t = s.faultedAt c w) := by
  cases r <;> simp [State.orRaise, State.raise, eq_comm]

/-- The bytes V0..Vx are x+1 many. -/
@[simp] theorem State.length_regsUpTo (s : State) (x : Nibble) : (s.regsUpTo x).length = x.toNat + 1 := by
  have := x.isLt
  simp [State.regsUpTo]
  omega

/-- Byte k of V0..Vx is V[k]. -/
theorem State.getElem_regsUpTo (s : State) (x r : Nibble) (h : r.toNat < (s.regsUpTo x).length) :
    (s.regsUpTo x)[r.toNat] = s.reg r := by
  simp [State.regsUpTo, State.reg]

@[simp] theorem length_bcdDigits (a : Byte) : (bcdDigits a).length = 3 := rfl

/-- A register file after a run of loads: the bytes from k upwards, the old values elsewhere. -/
theorem getElem_regsFrom (v : Vector Byte 16) (k j : Nat) (bs : List Byte) (hj : j < 16) :
    (regsFrom v k bs)[j] = if k ≤ j then bs.getD (j - k) v[j] else v[j] := by
  induction bs generalizing v k with
  | nil => simp [regsFrom]
  | cons b rest ih =>
    rw [regsFrom, ih]
    by_cases hkj : k = j
    · subst hkj
      simp
    · by_cases hlt : k < j
      · obtain ⟨d, rfl⟩ : ∃ d, j = k + 1 + d := ⟨j - (k + 1), by omega⟩
        have h1 : k + 1 + d - (k + 1) = d := by omega
        have h2 : k + 1 + d - k = d + 1 := by omega
        simp [h1, h2, show k ≤ k + 1 + d by omega, show ¬ k = k + 1 + d by omega]
      · simp [show ¬ k ≤ j by omega, show ¬ k + 1 ≤ j by omega, hkj]

/-- A register after the load of `FX65`: byte r of the block for r below its length, the old value above. -/
theorem State.reg_setRegs (s : State) (bs : List Byte) (r : Nibble) :
    (s.setRegs bs).reg r = bs.getD r.toNat (s.reg r) := by
  simp [State.reg, State.setRegs, getElem_regsFrom]

/-- The fetched word as a number: the byte at PC is the more significant (30_encoding.md R84). -/
theorem State.fetch_toNat (s : State) :
    s.fetch.toNat = (s.mem.read s.pc.toNat).toNat * 256 + (s.mem.read (s.pc.toNat + 1)).toNat :=
  assembleWord_toNat _ _

theorem fetchable_iff (pc : Word) : fetchable pc = true ↔ pc.toNat % 2 = 0 ∧ pc.toNat ≤ 0xFFE := by
  simp [fetchable]

/-- One step is one event delivered. -/
theorem step_eq (s : State) : step s = deliver s.nextEvent s.takeEvent := rfl

end Sys2Proof.Machine
end

