-- ==== Sys2Proof/Laws/Events.lean ====
section
/-! SUPPORT. What each event does, once each (10_state.md R40-R44), and the laws of frames (`ChangesOnly`). -/

namespace Sys2Proof.Machine

/-- Nothing changes from a state to itself. -/
theorem ChangesOnly.refl (ps : List Part) (s : State) : ChangesOnly ps s s := by
  intro p _
  cases p <;> simp [Part.kept]

/-- Two changes confined to the same parts are one. -/
theorem ChangesOnly.trans {ps : List Part} {s t u : State} (h₁ : ChangesOnly ps s t) (h₂ : ChangesOnly ps t u) :
    ChangesOnly ps s u := by
  intro p hp
  have a := h₁ p hp
  have b := h₂ p hp
  cases p <;> simp_all [Part.kept]

/-- A change confined to some parts is confined to more. -/
theorem ChangesOnly.mono {ps qs : List Part} {s t : State} (h : ChangesOnly ps s t) (hq : ∀ p ∈ ps, p ∈ qs) :
    ChangesOnly qs s t :=
  fun p hp => h p fun hps => hp (hq p hps)

/-- The event `step` of a running core is one cycle. -/
theorem step_of_running {s : State} (hr : s.run = .running) (hn : s.nextEvent = .step) :
    step s = fetchExecute s.takeEvent := by
  rw [step_eq, hn]
  simp [deliver, stepEvent, hr]

/-- One cycle where the PC is good and the word decodes. -/
theorem fetchExecute_of_instr {s : State} {i : Instr} (hf : fetchable s.pc = true) (hd : decode s.fetch = .instr i) :
    fetchExecute s = exec i s := by
  simp [fetchExecute, hf, hd]

/-- A counter goes down by one and stops at 0. -/
theorem countDown_toNat (b : Byte) : (countDown b).toNat = b.toNat - 1 := by
  unfold countDown
  split <;> bv_omega

/-- A `tick` after the first reset: both timers count down and nothing else changes. -/
theorem tick_of_reset_done {s : State} (h : s.run ≠ .unreset) :
    tick s = { s with dt := countDown s.dt, st := countDown s.st } := by
  unfold tick
  cases hr : s.run <;> simp_all

/-- Above the font, an unlisted byte is 0. -/
theorem Memory.unlisted_of_font_le {a : Nat} (h : 0x50 ≤ a) : Memory.unlisted a = 0 := by
  unfold Memory.unlisted
  rw [List.getD_eq_default]
  simpa [fontTable] using h

/-- The memory a reset leaves is in its canonical form, whatever the font. -/
theorem wf_romImage (font : Font) {rom : List Byte} (h : rom.length ≤ 3584) : (romImage font rom).wf = true :=
  Memory.wf_writeBytes (by simp [Config.memSize, Config.progBase]; omega)
    (Memory.wf_writeBytes (by simp [Config.memSize, Config.fontBase]) rfl)

/-- The memory a reset leaves: the font it was given below 0x50, the ROM from 0x200, and zeros elsewhere. -/
theorem read_romImage (font : Font) {rom : List Byte} (h : rom.length ≤ 3584) (a : Nat) :
    (romImage font rom).read a =
      if 0x200 ≤ a then rom.getD (a - 0x200) 0 else font.toList.getD a 0 := by
  unfold romImage
  rw [Memory.read_writeBytes (by simp [Config.memSize, Config.progBase]; omega)
      (Memory.wf_writeBytes (by simp [Config.memSize, Config.fontBase]) rfl),
    Memory.read_writeBytes (by simp [Config.memSize, Config.fontBase]) rfl]
  simp only [Memory.read_nil, Config.progBase, Config.fontBase, Nat.zero_le, if_true, Nat.sub_zero]
  have hl : font.toList.length = 80 := by simp
  by_cases ha : 0x50 ≤ a
  · rw [Memory.unlisted_of_font_le ha, List.getD_eq_default font.toList 0 (by omega)]
  · simp only [show ¬ 0x200 ≤ a by omega, if_false]
    rw [List.getD_eq_getElem _ _ (by omega), List.getD_eq_getElem _ _ (by omega)]

/-- What a fault's condition and its recorded word depend on. -/
theorem FaultCondition_congr {s t : State} (hpc : t.pc = s.pc) (hm : t.mem = s.mem) (hsp : t.sp = s.sp)
    (hi : t.i = s.i) (hv : t.v = s.v) (c : Cause) :
    (FaultCondition c t ↔ FaultCondition c s) ∧ recordedWord c t = recordedWord c s := by
  cases c <;> simp [FaultCondition, recordedWord, State.fetch, State.reg, hpc, hm, hsp, hi, hv]

end Sys2Proof.Machine
end

