-- ==== Sys2Proof/Laws/PerInstr.lean ====
section
/-! SUPPORT. A statement made of each instruction as syntax, one lemma a constructor: its word matches its own row,
and that row stands in the decode table (30_encoding.md R94). -/

namespace Sys2Proof.Laws

/-- Masking a word written out as four nibbles. -/
theorem mask_xyn (f x y n a b c d : Nibble) :
    (f ++ x ++ y ++ n : Word) &&& (a ++ b ++ c ++ d : Word) =
      ((f &&& a) ++ (x &&& b) ++ (y &&& c) ++ (n &&& d) : Word) := by
  show (f ++ x ++ y ++ n) &&& (a ++ b ++ c ++ d) = (f &&& a) ++ (x &&& b) ++ (y &&& c) ++ (n &&& d)
  rw [BitVec.and_append, BitVec.and_append, BitVec.and_append]

/-- Masking a word written out as two nibbles and a byte. -/
theorem mask_xnn (f x a b : Nibble) (nn c : Byte) :
    (f ++ x ++ nn : Word) &&& (a ++ b ++ c : Word) = ((f &&& a) ++ (x &&& b) ++ (nn &&& c) : Word) := by
  show (f ++ x ++ nn) &&& (a ++ b ++ c) = (f &&& a) ++ (x &&& b) ++ (nn &&& c)
  rw [BitVec.and_append, BitVec.and_append]

/-- Masking a word written out as a nibble and a 12-bit address. -/
theorem mask_nnn (f a : Nibble) (nnn c : Addr) :
    (f ++ nnn : Word) &&& (a ++ c : Word) = ((f &&& a) ++ (nnn &&& c) : Word) := by
  show (f ++ nnn) &&& (a ++ c) = (f &&& a) ++ (nnn &&& c)
  rw [BitVec.and_append]

/-- The word of the instruction matches the row of R94 that `rowOf` gives, and that row is in the table. -/
def EncodesOwnRow.Statement (i : Instr) : Prop :=
  (rowOf i).matchesWord (encode i) = true ∧ rowOf i ∈ opcodeTable

theorem EncodesOwnRow.cls :
    EncodesOwnRow.Statement (Instr.cls) := by
  exact ⟨by decide, by decide⟩

theorem EncodesOwnRow.ret :
    EncodesOwnRow.Statement (Instr.ret) := by
  exact ⟨by decide, by decide⟩

theorem EncodesOwnRow.jp (nnn : Addr) :
    EncodesOwnRow.Statement (Instr.jp nnn) := by
  refine ⟨beq_iff_eq.2 ((mask_nnn 0x1#4 0xF#4 nnn 0x000#12).trans ?_), by simp [rowOf, opcodeTable]⟩
  simp only [BitVec.and_zero]; rfl

theorem EncodesOwnRow.call (nnn : Addr) :
    EncodesOwnRow.Statement (Instr.call nnn) := by
  refine ⟨beq_iff_eq.2 ((mask_nnn 0x2#4 0xF#4 nnn 0x000#12).trans ?_), by simp [rowOf, opcodeTable]⟩
  simp only [BitVec.and_zero]; rfl

theorem EncodesOwnRow.seImm (x : Nibble) (nn : Byte) :
    EncodesOwnRow.Statement (Instr.seImm x nn) := by
  refine ⟨beq_iff_eq.2 ((mask_xnn 0x3#4 x 0xF#4 0x0#4 nn 0x00#8).trans ?_), by simp [rowOf, opcodeTable]⟩
  simp only [BitVec.and_zero]; rfl

theorem EncodesOwnRow.sneImm (x : Nibble) (nn : Byte) :
    EncodesOwnRow.Statement (Instr.sneImm x nn) := by
  refine ⟨beq_iff_eq.2 ((mask_xnn 0x4#4 x 0xF#4 0x0#4 nn 0x00#8).trans ?_), by simp [rowOf, opcodeTable]⟩
  simp only [BitVec.and_zero]; rfl

theorem EncodesOwnRow.seReg (x y : Nibble) :
    EncodesOwnRow.Statement (Instr.seReg x y) := by
  refine ⟨beq_iff_eq.2 ((mask_xyn 0x5#4 x y 0x0#4 0xF#4 0x0#4 0x0#4 0xF#4).trans ?_), by simp [rowOf, opcodeTable]⟩
  simp only [BitVec.and_zero]; rfl

theorem EncodesOwnRow.ldImm (x : Nibble) (nn : Byte) :
    EncodesOwnRow.Statement (Instr.ldImm x nn) := by
  refine ⟨beq_iff_eq.2 ((mask_xnn 0x6#4 x 0xF#4 0x0#4 nn 0x00#8).trans ?_), by simp [rowOf, opcodeTable]⟩
  simp only [BitVec.and_zero]; rfl

theorem EncodesOwnRow.addImm (x : Nibble) (nn : Byte) :
    EncodesOwnRow.Statement (Instr.addImm x nn) := by
  refine ⟨beq_iff_eq.2 ((mask_xnn 0x7#4 x 0xF#4 0x0#4 nn 0x00#8).trans ?_), by simp [rowOf, opcodeTable]⟩
  simp only [BitVec.and_zero]; rfl

theorem EncodesOwnRow.ldReg (x y : Nibble) :
    EncodesOwnRow.Statement (Instr.ldReg x y) := by
  refine ⟨beq_iff_eq.2 ((mask_xyn 0x8#4 x y 0x0#4 0xF#4 0x0#4 0x0#4 0xF#4).trans ?_), by simp [rowOf, opcodeTable]⟩
  simp only [BitVec.and_zero]; rfl

theorem EncodesOwnRow.orReg (x y : Nibble) :
    EncodesOwnRow.Statement (Instr.orReg x y) := by
  refine ⟨beq_iff_eq.2 ((mask_xyn 0x8#4 x y 0x1#4 0xF#4 0x0#4 0x0#4 0xF#4).trans ?_), by simp [rowOf, opcodeTable]⟩
  simp only [BitVec.and_zero]; rfl

theorem EncodesOwnRow.andReg (x y : Nibble) :
    EncodesOwnRow.Statement (Instr.andReg x y) := by
  refine ⟨beq_iff_eq.2 ((mask_xyn 0x8#4 x y 0x2#4 0xF#4 0x0#4 0x0#4 0xF#4).trans ?_), by simp [rowOf, opcodeTable]⟩
  simp only [BitVec.and_zero]; rfl

theorem EncodesOwnRow.xorReg (x y : Nibble) :
    EncodesOwnRow.Statement (Instr.xorReg x y) := by
  refine ⟨beq_iff_eq.2 ((mask_xyn 0x8#4 x y 0x3#4 0xF#4 0x0#4 0x0#4 0xF#4).trans ?_), by simp [rowOf, opcodeTable]⟩
  simp only [BitVec.and_zero]; rfl

theorem EncodesOwnRow.addReg (x y : Nibble) :
    EncodesOwnRow.Statement (Instr.addReg x y) := by
  refine ⟨beq_iff_eq.2 ((mask_xyn 0x8#4 x y 0x4#4 0xF#4 0x0#4 0x0#4 0xF#4).trans ?_), by simp [rowOf, opcodeTable]⟩
  simp only [BitVec.and_zero]; rfl

theorem EncodesOwnRow.subReg (x y : Nibble) :
    EncodesOwnRow.Statement (Instr.subReg x y) := by
  refine ⟨beq_iff_eq.2 ((mask_xyn 0x8#4 x y 0x5#4 0xF#4 0x0#4 0x0#4 0xF#4).trans ?_), by simp [rowOf, opcodeTable]⟩
  simp only [BitVec.and_zero]; rfl

theorem EncodesOwnRow.shr (x : Nibble) :
    EncodesOwnRow.Statement (Instr.shr x) := by
  refine ⟨beq_iff_eq.2 ((mask_xnn 0x8#4 x 0xF#4 0x0#4 0x06#8 0x0F#8).trans ?_), by simp [rowOf, opcodeTable]⟩
  simp only [BitVec.and_zero]; rfl

theorem EncodesOwnRow.subn (x y : Nibble) :
    EncodesOwnRow.Statement (Instr.subn x y) := by
  refine ⟨beq_iff_eq.2 ((mask_xyn 0x8#4 x y 0x7#4 0xF#4 0x0#4 0x0#4 0xF#4).trans ?_), by simp [rowOf, opcodeTable]⟩
  simp only [BitVec.and_zero]; rfl

theorem EncodesOwnRow.shl (x : Nibble) :
    EncodesOwnRow.Statement (Instr.shl x) := by
  refine ⟨beq_iff_eq.2 ((mask_xnn 0x8#4 x 0xF#4 0x0#4 0x0E#8 0x0F#8).trans ?_), by simp [rowOf, opcodeTable]⟩
  simp only [BitVec.and_zero]; rfl

theorem EncodesOwnRow.sneReg (x y : Nibble) :
    EncodesOwnRow.Statement (Instr.sneReg x y) := by
  refine ⟨beq_iff_eq.2 ((mask_xyn 0x9#4 x y 0x0#4 0xF#4 0x0#4 0x0#4 0xF#4).trans ?_), by simp [rowOf, opcodeTable]⟩
  simp only [BitVec.and_zero]; rfl

theorem EncodesOwnRow.ldI (nnn : Addr) :
    EncodesOwnRow.Statement (Instr.ldI nnn) := by
  refine ⟨beq_iff_eq.2 ((mask_nnn 0xA#4 0xF#4 nnn 0x000#12).trans ?_), by simp [rowOf, opcodeTable]⟩
  simp only [BitVec.and_zero]; rfl

theorem EncodesOwnRow.jpV0 (nnn : Addr) :
    EncodesOwnRow.Statement (Instr.jpV0 nnn) := by
  refine ⟨beq_iff_eq.2 ((mask_nnn 0xB#4 0xF#4 nnn 0x000#12).trans ?_), by simp [rowOf, opcodeTable]⟩
  simp only [BitVec.and_zero]; rfl

theorem EncodesOwnRow.rnd (x : Nibble) (nn : Byte) :
    EncodesOwnRow.Statement (Instr.rnd x nn) := by
  refine ⟨beq_iff_eq.2 ((mask_xnn 0xC#4 x 0xF#4 0x0#4 nn 0x00#8).trans ?_), by simp [rowOf, opcodeTable]⟩
  simp only [BitVec.and_zero]; rfl

theorem EncodesOwnRow.drw (x y n : Nibble) :
    EncodesOwnRow.Statement (Instr.drw x y n) := by
  refine ⟨beq_iff_eq.2 ((mask_xyn 0xD#4 x y n 0xF#4 0x0#4 0x0#4 0x0#4).trans ?_), by simp [rowOf, opcodeTable]⟩
  simp only [BitVec.and_zero]; rfl

theorem EncodesOwnRow.skp (x : Nibble) :
    EncodesOwnRow.Statement (Instr.skp x) := by
  refine ⟨beq_iff_eq.2 ((mask_xnn 0xE#4 x 0xF#4 0x0#4 0x9E#8 0xFF#8).trans ?_), by simp [rowOf, opcodeTable]⟩
  simp only [BitVec.and_zero]; rfl

theorem EncodesOwnRow.sknp (x : Nibble) :
    EncodesOwnRow.Statement (Instr.sknp x) := by
  refine ⟨beq_iff_eq.2 ((mask_xnn 0xE#4 x 0xF#4 0x0#4 0xA1#8 0xFF#8).trans ?_), by simp [rowOf, opcodeTable]⟩
  simp only [BitVec.and_zero]; rfl

theorem EncodesOwnRow.ldVxDt (x : Nibble) :
    EncodesOwnRow.Statement (Instr.ldVxDt x) := by
  refine ⟨beq_iff_eq.2 ((mask_xnn 0xF#4 x 0xF#4 0x0#4 0x07#8 0xFF#8).trans ?_), by simp [rowOf, opcodeTable]⟩
  simp only [BitVec.and_zero]; rfl

theorem EncodesOwnRow.ldVxK (x : Nibble) :
    EncodesOwnRow.Statement (Instr.ldVxK x) := by
  refine ⟨beq_iff_eq.2 ((mask_xnn 0xF#4 x 0xF#4 0x0#4 0x0A#8 0xFF#8).trans ?_), by simp [rowOf, opcodeTable]⟩
  simp only [BitVec.and_zero]; rfl

theorem EncodesOwnRow.ldDtVx (x : Nibble) :
    EncodesOwnRow.Statement (Instr.ldDtVx x) := by
  refine ⟨beq_iff_eq.2 ((mask_xnn 0xF#4 x 0xF#4 0x0#4 0x15#8 0xFF#8).trans ?_), by simp [rowOf, opcodeTable]⟩
  simp only [BitVec.and_zero]; rfl

theorem EncodesOwnRow.ldStVx (x : Nibble) :
    EncodesOwnRow.Statement (Instr.ldStVx x) := by
  refine ⟨beq_iff_eq.2 ((mask_xnn 0xF#4 x 0xF#4 0x0#4 0x18#8 0xFF#8).trans ?_), by simp [rowOf, opcodeTable]⟩
  simp only [BitVec.and_zero]; rfl

theorem EncodesOwnRow.addI (x : Nibble) :
    EncodesOwnRow.Statement (Instr.addI x) := by
  refine ⟨beq_iff_eq.2 ((mask_xnn 0xF#4 x 0xF#4 0x0#4 0x1E#8 0xFF#8).trans ?_), by simp [rowOf, opcodeTable]⟩
  simp only [BitVec.and_zero]; rfl

theorem EncodesOwnRow.ldF (x : Nibble) :
    EncodesOwnRow.Statement (Instr.ldF x) := by
  refine ⟨beq_iff_eq.2 ((mask_xnn 0xF#4 x 0xF#4 0x0#4 0x29#8 0xFF#8).trans ?_), by simp [rowOf, opcodeTable]⟩
  simp only [BitVec.and_zero]; rfl

theorem EncodesOwnRow.ldB (x : Nibble) :
    EncodesOwnRow.Statement (Instr.ldB x) := by
  refine ⟨beq_iff_eq.2 ((mask_xnn 0xF#4 x 0xF#4 0x0#4 0x33#8 0xFF#8).trans ?_), by simp [rowOf, opcodeTable]⟩
  simp only [BitVec.and_zero]; rfl

theorem EncodesOwnRow.storeRegs (x : Nibble) :
    EncodesOwnRow.Statement (Instr.storeRegs x) := by
  refine ⟨beq_iff_eq.2 ((mask_xnn 0xF#4 x 0xF#4 0x0#4 0x55#8 0xFF#8).trans ?_), by simp [rowOf, opcodeTable]⟩
  simp only [BitVec.and_zero]; rfl

theorem EncodesOwnRow.loadRegs (x : Nibble) :
    EncodesOwnRow.Statement (Instr.loadRegs x) := by
  refine ⟨beq_iff_eq.2 ((mask_xnn 0xF#4 x 0xF#4 0x0#4 0x65#8 0xFF#8).trans ?_), by simp [rowOf, opcodeTable]⟩
  simp only [BitVec.and_zero]; rfl

end Sys2Proof.Laws
end

