-- ==== Sys2Proof/Tests/Slice0.lean ====
section
/-! SUPPORT. The model's own tests, and a witness for every hypothesis of the obligations.

Expected results are those of spec/95_test_vectors.md (the vector's id stands in each docstring) or of the encoding table
of spec/30_encoding.md (R94). Every test runs one step. -/

namespace Sys2Proof.Tests

open Sys2Proof Sys2Proof.Machine

/-! ### Helpers -/

/-- The state after reset, with some registers set. -/
def withRegs (rs : List (Nibble × Byte)) : State := rs.foldl (fun s r => s.setReg r.1 r.2) State.reset

/-- The state with some bytes of memory set. -/
def poke (s : State) (a : Nat) (bytes : List Byte) : State := { s with mem := s.mem.writeBytes a bytes }

/-- One step on the word w from s answers a next state in which the check holds. -/
def runs (w : Nat) (s : State) (check : State → Bool) : Bool :=
  match step (s.withFetchWord 16 w) with
  | .next t => check t
  | .fault _ => false
  | .refused _ => false

/-- One delivered event from s answers a next state in which the check holds. -/
def gets (e : Event) (s : State) (check : State → Bool) : Bool :=
  match step { s with events := [e] } with
  | .next t => check t
  | .fault _ => false
  | .refused _ => false

/-- The step on w from s ends in the fault, with PC and the given word recorded. -/
def faults (w : Nat) (s : State) (c : Cause) (fop : Word) : Bool :=
  runs w s fun t => t.run == .faulted c s.pc fop && t.pc == s.pc && t.sp == s.sp && t.v == s.v

/-! ### Well-formedness: one word for each of the six sets of R96 is refused (V1.3 to V1.9) -/

theorem test_wellFormed_refuses_family_0 : Word.family0Ok 0x0123 = false ∧ Word.wellFormed 0x0123 = false := by decide
theorem test_wellFormed_refuses_family_5 : Word.family5Ok 0x5001 = false ∧ Word.wellFormed 0x5001 = false := by decide
theorem test_wellFormed_refuses_family_8 : Word.family8Ok 0x8008 = false ∧ Word.wellFormed 0x800F = false := by decide
theorem test_wellFormed_refuses_family_9 : Word.family9Ok 0x9001 = false ∧ Word.wellFormed 0x9001 = false := by decide
theorem test_wellFormed_refuses_family_E : Word.familyEOk 0xE09F = false ∧ Word.wellFormed 0xE0A2 = false := by decide
theorem test_wellFormed_refuses_family_F : Word.familyFOk 0xF075 = false ∧ Word.wellFormed 0xFFFF = false := by decide
theorem test_wellFormed_accepts : Word.wellFormed 0x00E0 = true ∧ Word.wellFormed 0x82FE = true ∧
    Word.wellFormed 0xEFA1 = true ∧ Word.wellFormed 0xF065 = true := by decide

/-! ### Decoding: a word written out from the pattern of each row of R94 -/

theorem test_decode_family_0 :
    decode 0b0000000011100000 = .instr .cls ∧ decode 0b0000000011101110 = .instr .ret ∧
    decode 0x00E1 = .illegalOpcode := by decide

theorem test_decode_jumps :
    decode 0b0001101010111100 = .instr (.jp 0xABC) ∧ decode 0b0010001100000000 = .instr (.call 0x300) ∧
    decode 0b1011001111110000 = .instr (.jpV0 0x3F0) := by decide

theorem test_decode_immediate_skips :
    decode 0b0011011100010010 = .instr (.seImm 7 0x12) ∧ decode 0b0100011100010010 = .instr (.sneImm 7 0x12) := by
  decide

theorem test_decode_register_skips :
    decode 0b0101000100100000 = .instr (.seReg 1 2) ∧ decode 0b1001000100100000 = .instr (.sneReg 1 2) ∧
    decode 0x5001 = .illegalOpcode ∧ decode 0x9001 = .illegalOpcode := by decide

theorem test_decode_immediates :
    decode 0b0110101001011100 = .instr (.ldImm 0xA 0x5C) ∧ decode 0b0111001000000001 = .instr (.addImm 2 0x01) ∧
    decode 0b1010111111110000 = .instr (.ldI 0xFF0) ∧ decode 0b1100001100001111 = .instr (.rnd 3 0x0F) := by decide

theorem test_decode_family_8 :
    decode 0b1000000100100000 = .instr (.ldReg 1 2) ∧ decode 0b1000000100100001 = .instr (.orReg 1 2) ∧
    decode 0b1000000100100010 = .instr (.andReg 1 2) ∧ decode 0b1000000100100011 = .instr (.xorReg 1 2) ∧
    decode 0b1000000100100100 = .instr (.addReg 1 2) ∧ decode 0b1000000100100101 = .instr (.subReg 1 2) ∧
    decode 0b1000000100100110 = .instr (.shr 1) ∧ decode 0b1000000100100111 = .instr (.subn 1 2) ∧
    decode 0b1000000100101110 = .instr (.shl 1) ∧ decode 0x800F = .illegalOpcode := by decide

theorem test_decode_draw_and_keys :
    decode 0b1101000100100101 = .instr (.drw 1 2 5) ∧ decode 0b1110001110011110 = .instr (.skp 3) ∧
    decode 0b1110001110100001 = .instr (.sknp 3) ∧ decode 0xE09F = .illegalOpcode := by decide

theorem test_decode_family_F :
    decode 0b1111010000000111 = .instr (.ldVxDt 4) ∧ decode 0b1111010000001010 = .instr (.ldVxK 4) ∧
    decode 0b1111010000010101 = .instr (.ldDtVx 4) ∧ decode 0b1111010000011000 = .instr (.ldStVx 4) ∧
    decode 0b1111010000011110 = .instr (.addI 4) ∧ decode 0b1111010000101001 = .instr (.ldF 4) ∧
    decode 0b1111010000110011 = .instr (.ldB 4) ∧ decode 0b1111010001010101 = .instr (.storeRegs 4) ∧
    decode 0b1111010001100101 = .instr (.loadRegs 4) ∧ decode 0xF075 = .illegalOpcode := by decide

/-- V1.1: the first byte in memory is the more significant. -/
theorem test_decodeBytes_is_big_endian : decodeBytes 0x12 0x34 = .instr (.jp 0x234) := by decide

theorem test_decodeTableWord :
    decodeTableWord 16 0x1234 = some (.jp 0x234) ∧ decodeTableWord 16 0x5001 = none := by decide

/-! ### One step each, against the vectors of spec/95_test_vectors.md -/

/-- V6.14. -/
theorem test_cls : runs 0x00E0 { withRegs [(0xF, 5)] with fb := Vector.replicate 256 0xA5 } (fun t =>
    t.fb[0] == 0 && t.fb[255] == 0 && t.reg 0xF == 5 && t.drawEvents == 1 && t.pc == 0x202) = true := by decide

/-- V2.7: the slot above SP keeps its value. -/
theorem test_ret : runs 0x00EE
    { State.reset with sp := 2, stack := (State.reset.stack.set 0 0x0202).set 1 0x0310 } (fun t =>
    t.sp == 1 && t.pc == 0x310 && t.stack[1] == 0x310) = true := by decide

/-- V2.6. -/
theorem test_ret_underflow : faults 0x00EE State.reset .stackUnderflow 0x00EE = true := by decide

/-- V2.1 and V2.2. -/
theorem test_jp : runs 0x1ABC State.reset (fun t => t.pc == 0xABC) = true ∧
    runs 0x1201 State.reset (fun t => t.pc == 0x201) = true := by decide

/-- V2.4 and V2.8. -/
theorem test_call :
    runs 0x2500 { State.reset with pc := 0x400, sp := 15 } (fun t =>
      t.stack[15] == 0x402 && t.sp == 16 && t.pc == 0x500) = true ∧
    runs 0x2300 { State.reset with pc := 0xFFE } (fun t =>
      t.stack[0] == 0x1000 && t.sp == 1 && t.pc == 0x300) = true := by decide

/-- V2.5. -/
theorem test_call_overflow :
    faults 0x2600 { State.reset with pc := 0x500, sp := 16 } .stackOverflow 0x2600 = true := by decide

/-- V2.12 and V2.13. -/
theorem test_seImm : runs 0x3312 (withRegs [(3, 0x12)]) (fun t => t.pc == 0x204) = true ∧
    runs 0x3313 (withRegs [(3, 0x12)]) (fun t => t.pc == 0x202) = true := by decide

/-- V2.14 and V2.15. -/
theorem test_sneImm : runs 0x4312 (withRegs [(3, 0x12)]) (fun t => t.pc == 0x202) = true ∧
    runs 0x4300 (withRegs [(3, 0x12)]) (fun t => t.pc == 0x204) = true := by decide

/-- V2.16 and V2.17. -/
theorem test_seReg : runs 0x5120 (withRegs [(1, 0x7F), (2, 0x7F)]) (fun t => t.pc == 0x204) = true ∧
    runs 0x5440 (withRegs [(4, 9)]) (fun t => t.pc == 0x204) = true := by decide

/-- V2.18. -/
theorem test_sneReg : runs 0x9120 (withRegs [(1, 1), (2, 2)]) (fun t => t.pc == 0x204) = true := by decide

/-- V4.1. -/
theorem test_ldImm : runs 0x6A5C State.reset (fun t => t.reg 0xA == 0x5C) = true := by decide

/-- V4.2 and V4.3: no carry flag. -/
theorem test_addImm : runs 0x7201 (withRegs [(2, 0xFF)]) (fun t => t.reg 2 == 0 && t.reg 0xF == 0) = true ∧
    runs 0x7F01 (withRegs [(0xF, 0x10)]) (fun t => t.reg 0xF == 0x11) = true := by decide

/-- V3.1. -/
theorem test_ldReg : runs 0x8120 (withRegs [(2, 0x37), (0xF, 5)]) (fun t => t.reg 1 == 0x37 && t.reg 0xF == 5) = true := by
  decide

/-- V3.2 and V3.5: VF changes only as the destination. -/
theorem test_orReg :
    runs 0x8121 (withRegs [(1, 0x0F), (2, 0xF0), (0xF, 5)]) (fun t => t.reg 1 == 0xFF && t.reg 0xF == 5) = true ∧
    runs 0x8F01 (withRegs [(0xF, 1), (0, 0x10)]) (fun t => t.reg 0xF == 0x11) = true := by decide

/-- V3.3. -/
theorem test_andReg :
    runs 0x8122 (withRegs [(1, 0x3C), (2, 0x0F), (0xF, 5)]) (fun t => t.reg 1 == 0x0C && t.reg 0xF == 5) = true := by
  decide

/-- V3.4. -/
theorem test_xorReg : runs 0x8553 (withRegs [(5, 0xAA)]) (fun t => t.reg 5 == 0) = true := by decide

/-- V3.7 and V3.8: the carry, and VF as a source read before it is written. -/
theorem test_addReg : runs 0x8014 (withRegs [(0, 0x80), (1, 0x80)]) (fun t => t.reg 0 == 0 && t.reg 0xF == 1) = true ∧
    runs 0x80F4 (withRegs [(0, 0x10), (0xF, 1)]) (fun t => t.reg 0 == 0x11 && t.reg 0xF == 0) = true := by decide

/-- V3.9: with x = F the flag is written last. -/
theorem test_addReg_flag_last : runs 0x8F14 (withRegs [(0xF, 0xFF), (1, 1)]) (fun t => t.reg 0xF == 1) = true := by
  decide

/-- V3.11 and V3.12. -/
theorem test_subReg : runs 0x8015 (withRegs [(0, 5), (1, 5)]) (fun t => t.reg 0 == 0 && t.reg 0xF == 1) = true ∧
    runs 0x8015 (withRegs [(1, 1)]) (fun t => t.reg 0 == 0xFF && t.reg 0xF == 0) = true := by decide

/-- V3.14 and V3.15. -/
theorem test_subn : runs 0x8017 (withRegs [(0, 5), (1, 3)]) (fun t => t.reg 0 == 0xFE && t.reg 0xF == 0) = true ∧
    runs 0x8017 (withRegs [(0, 3), (1, 5)]) (fun t => t.reg 0 == 2 && t.reg 0xF == 1) = true := by decide

/-- V3.18 (V[y] is not read) and V1.10 (any y). -/
theorem test_shr :
    runs 0x8236 (withRegs [(2, 0x80), (3, 1)]) (fun t => t.reg 2 == 0x40 && t.reg 0xF == 0 && t.reg 3 == 1) = true ∧
    runs 0x82F6 (withRegs [(2, 0x81)]) (fun t => t.reg 2 == 0x40 && t.reg 0xF == 1) = true := by decide

/-- V3.21 and V3.22. -/
theorem test_shl : runs 0x800E (withRegs [(0, 0x7F)]) (fun t => t.reg 0 == 0xFE && t.reg 0xF == 0) = true ∧
    runs 0x840E (withRegs [(4, 0x81)]) (fun t => t.reg 4 == 2 && t.reg 0xF == 1) = true := by decide

/-- V4.4. -/
theorem test_ldI : runs 0xAFFF State.reset (fun t => t.i == 0xFFF) = true := by decide

/-- V2.10 and V2.11: V0 is added, not Vx, and nothing wraps at 12 bits. -/
theorem test_jpV0 : runs 0xBFFF (withRegs [(0, 0xFF)]) (fun t => t.pc == 0x10FE) = true ∧
    runs 0xB3F0 (withRegs [(0, 0xFF), (3, 0)]) (fun t => t.pc == 0x4EF) = true := by decide

/-- V4.8 and V4.10, with the sample given. -/
theorem test_rnd :
    runs 0xC30F { State.reset with rndPlan := [0xB7] } (fun t => t.reg 3 == 7 && t.rndPlan == []) = true ∧
    runs 0xC3FF { State.reset with rndPlan := [0xB7] } (fun t => t.reg 3 == 0xB7) = true := by decide

/-- V6.2: wrapping column; the byte on the right edge and the byte at the left of the same row. -/
theorem test_drw_wraps : runs 0xD011 (poke { withRegs [(0, 0x3F), (1, 0x1F)] with i := 0x300 } 0x300 [0xC0]) (fun t =>
    t.fb[255] == 1 && t.fb[248] == 0x80 && t.fb[0] == 0 && t.reg 0xF == 0 && t.drawEvents == 1) = true := by decide

/-- V6.6: only row 1 collides. -/
theorem test_drw_collision : runs 0xD012
    (poke { withRegs [] with i := 0x300, fb := State.reset.fb.set 8 0x80 } 0x300 [0x80, 0x80]) (fun t =>
    t.fb[0] == 0x80 && t.fb[8] == 0 && t.reg 0xF == 1) = true := by decide

/-- V7.1 and V7.2. -/
theorem test_skp :
    runs 0xE19E { withRegs [(1, 5)] with keysPlan := [0x0020] } (fun t => t.pc == 0x204) = true ∧
    runs 0xE19E { withRegs [(1, 5)] with keysPlan := [0x0000] } (fun t => t.pc == 0x202) = true := by decide

/-- V7.5. -/
theorem test_skp_key_above_F : faults 0xE19E (withRegs [(1, 0x10)]) .invariantKey 0xE19E = true := by decide

/-- V7.3 and V7.4. -/
theorem test_sknp :
    runs 0xE1A1 { withRegs [(1, 5)] with keysPlan := [0x0000] } (fun t => t.pc == 0x204) = true ∧
    runs 0xE1A1 { withRegs [(1, 5)] with keysPlan := [0x0020] } (fun t => t.pc == 0x202) = true := by decide

/-- V7.6. -/
theorem test_sknp_key_above_F : faults 0xE1A1 (withRegs [(1, 0xFF)]) .invariantKey 0xE1A1 = true := by decide

/-- V8.1 and V8.2. -/
theorem test_ldVxDt : runs 0xF207 { State.reset with dt := 0x3C } (fun t => t.reg 2 == 0x3C) = true ∧
    runs 0xFF07 { State.reset with dt := 0x3C } (fun t => t.reg 0xF == 0x3C) = true := by decide

/-- V7.7. -/
theorem test_ldVxK : runs 0xF30A { State.reset with pc := 0x210 } (fun t =>
    t.run == .waitingKey 3 && t.pc == 0x210 && t.reg 3 == 0) = true := by decide

/-- V8.3. -/
theorem test_ldDtVx : runs 0xF115 (withRegs [(1, 0x0A)]) (fun t => t.dt == 0x0A) = true := by decide

/-- V8.4 and V8.10. -/
theorem test_ldStVx : runs 0xF118 (withRegs [(1, 2)]) (fun t => t.st == 2 && t.soundOn) = true ∧
    runs 0xF118 { State.reset with st := 5 } (fun t => t.st == 0 && !t.soundOn) = true := by decide

/-- V4.6 and V4.7: 12 bits kept, no flag. -/
theorem test_addI : runs 0xF01E { withRegs [(0, 1)] with i := 0xFFF } (fun t => t.i == 0 && t.reg 0xF == 0) = true ∧
    runs 0xF11E { withRegs [(1, 0xFF)] with i := 0xFF0 } (fun t => t.i == 0x0EF) = true := by decide

/-- V5.17 and V5.19: not masked. -/
theorem test_ldF : runs 0xF529 (withRegs [(5, 0x0F)]) (fun t => t.i == 0x4B) = true ∧
    runs 0xF529 (withRegs [(5, 0xFF)]) (fun t => t.i == 0x4FB) = true := by decide

/-- V5.7: the last three bytes of memory. -/
theorem test_ldB : runs 0xF033 { withRegs [(0, 0xFF)] with i := 0xFFD } (fun t =>
    t.mem.readBytes 0xFFD 3 == [2, 5, 5] && t.i == 0xFFD) = true := by decide

/-- V5.8: nothing is written. -/
theorem test_ldB_above_FFF : runs 0xF033 { withRegs [(0, 0xFF)] with i := 0xFFE } (fun t =>
    t.run == .faulted .invariantAddress 0x200 0xF033 && t.mem.readBytes 0xFFE 2 == [0, 0]) = true := by decide

/-- V5.9. -/
theorem test_storeRegs : runs 0xF255 { withRegs [(0, 1), (1, 2), (2, 3)] with i := 0x300 } (fun t =>
    t.mem.readBytes 0x300 4 == [1, 2, 3, 0] && t.i == 0x300) = true := by decide

/-- V5.11. -/
theorem test_storeRegs_above_FFF :
    faults 0xFF55 { State.reset with i := 0xFF1 } .invariantAddress 0xFF55 = true := by decide

/-- V5.13. -/
theorem test_loadRegs : runs 0xF165 (poke { withRegs [(2, 7)] with i := 0x300 } 0x300 [0xAA, 0x55, 0x11]) (fun t =>
    t.reg 0 == 0xAA && t.reg 1 == 0x55 && t.reg 2 == 7 && t.i == 0x300) = true := by decide

/-- V5.15. -/
theorem test_loadRegs_above_FFF :
    faults 0xF165 { State.reset with i := 0xFFF } .invariantAddress 0xF165 = true := by decide

/-- V1.2 and V1.11: an empty ROM, and an odd PC. -/
theorem test_fetch_faults :
    gets .step State.reset (fun t => t.run == .faulted .illegalOpcode 0x200 0) = true ∧
    gets .step { State.reset with pc := 0x201 } (fun t => t.run == .faulted .invariantPc 0x201 0) = true := by decide

/-- V7.8 and V7.13. -/
theorem test_key_press :
    gets (.keyPress 0xC) { State.reset with pc := 0x210, run := .waitingKey 3 } (fun t =>
      t.reg 3 == 0xC && t.pc == 0x212 && t.run == .running) = true ∧
    gets (.keyPress 4) State.reset (fun t => t.v == State.reset.v && t.pc == 0x200) = true := by decide

/-- V8.7, V8.8 and V8.9. -/
theorem test_tick :
    gets .tick { State.reset with dt := 5 } (fun t => t.dt == 4 && t.st == 0) = true ∧
    gets .tick { State.reset with dt := 2, run := .faulted .illegalOpcode 0x200 0 } (fun t =>
      t.dt == 1 && t.run == .faulted .illegalOpcode 0x200 0) = true ∧
    gets .tick { State.reset with dt := 2, run := .unreset } (fun t => t.dt == 2) = true := by decide

/-- V9.3 and W2: a fault is left by a reset; the ROM is at 0x200 and the font below 0x50. -/
theorem test_reset_req :
    gets (.resetReq [0x12, 0x34]) { State.reset with sp := 5, run := .faulted .stackOverflow 0x500 0x2600 } (fun t =>
      t.run == .running && t.pc == 0x200 && t.sp == 0 && t.mem.readBytes 0x200 3 == [0x12, 0x34, 0] &&
      t.mem.readBytes 0x04E 3 == [0x80, 0x80, 0] && t.resetAck == some .ok) = true := by decide

/-- R35, D23: a reset loads the FONT it is given. -/
theorem test_reset_req_loads_font :
    gets (.resetReq []) { State.reset with font := (Vector.replicate 80 0x3C).set 79 0x7E } (fun t =>
      t.mem.readBytes 0 2 == [0x3C, 0x3C] && t.mem.readBytes 0x4E 3 == [0x3C, 0x7E, 0]) = true := by decide

/-- R300 with the empty ROM and the default FONT leaves `State.reset`. -/
theorem test_resetReq_reset : resetReq [] State.reset = State.reset := by rfl

/-- R35: glyph A is at 0x032. -/
theorem test_default_font_glyph_A : State.reset.mem.readBytes 0x032 5 = [0xF0, 0x90, 0xF0, 0x90, 0x90] := by decide

/-! ### Witnesses: for each obligation with hypotheses, states and operands that meet them, one for each clause

Clauses at their boundary values: SP 0, 1, 15, 16; a block that ends at 0xFFF and one byte above; a key index of 0xF and
0x10; a PC of 0xFFE, 0xFFF and 0x1000; a ROM of 3584 and 3585 bytes. -/

theorem witness_EncodeInvertsDecodeButForIgnoredField :
    decode 0x82F6 = .instr (.shr 2) ∧ decode 0x8FFE = .instr (.shl 0xF) ∧ decode 0xFF65 = .instr (.loadRegs 0xF) := by
  decide

theorem witness_StepRunsDecodedInstruction :
    ∃ (s : State) (w : Word) (i : Instr), s.run = .running ∧ s.nextEvent = .step ∧ s.pc.toNat % 2 = 0 ∧ s.pc.toNat = 0xFFE ∧
      w.toNat = (s.mem.read s.pc.toNat).toNat * 256 + (s.mem.read (s.pc.toNat + 1)).toNat ∧ decode w = .instr i :=
  ⟨poke { State.reset with pc := 0xFFE } 0xFFE [0x60, 0x07], 0x6007, .ldImm 0 7, by decide⟩

theorem witness_IllegalWordFaults :
    ∃ (s : State) (w : Word), s.run = .running ∧ s.nextEvent = .step ∧ s.pc.toNat % 2 = 0 ∧ s.pc.toNat ≤ 0xFFE ∧
      w.toNat = (s.mem.read s.pc.toNat).toNat * 256 + (s.mem.read (s.pc.toNat + 1)).toNat ∧ decode w = .illegalOpcode :=
  ⟨poke State.reset 0x200 [0x01, 0x23], 0x0123, by decide⟩

theorem witness_UnfetchablePcFaults :
    (∃ s : State, s.run = .running ∧ s.nextEvent = .step ∧ s.pc.toNat = 0x201) ∧
    (∃ s : State, s.run = .running ∧ s.nextEvent = .step ∧ s.pc.toNat = 0x1000) ∧
    (∃ s : State, s.run = .running ∧ s.nextEvent = .step ∧ s.pc.toNat = 0xFFF) :=
  ⟨⟨{ State.reset with pc := 0x201 }, by decide⟩, ⟨{ State.reset with pc := 0x1000 }, by decide⟩,
    ⟨{ State.reset with pc := 0xFFF }, by decide⟩⟩

theorem witness_StepChangesNothingUnlessRunning :
    ∀ r ∈ [RunState.unreset, .waitingKey 3, .faulted .illegalOpcode 0x200 0],
      ∃ s : State, s.run = r ∧ s.run ≠ .running ∧ s.nextEvent = .step := by
  intro r hr
  refine ⟨{ State.reset with run := r }, rfl, ?_, rfl⟩
  revert hr
  cases r <;> simp

/-- Also the witness of `FaultsHappenExactlyOnTheirConditions` where the condition holds: each of the six causes. -/
theorem witness_FaultsArePrecise :
    (∃ s t : State, s.run = .running ∧ s.nextEvent = .step ∧ step s = .next t ∧ t.run = .faulted .invariantPc 0x201 0) ∧
    (∃ s t : State, s.run = .running ∧ s.nextEvent = .step ∧ step s = .next t ∧ t.run = .faulted .illegalOpcode 0x200 0) ∧
    (∃ s t : State, s.run = .running ∧ s.nextEvent = .step ∧ step s = .next t ∧
      t.run = .faulted .stackOverflow 0x200 0x2600) ∧
    (∃ s t : State, s.run = .running ∧ s.nextEvent = .step ∧ step s = .next t ∧
      t.run = .faulted .stackUnderflow 0x200 0x00EE) ∧
    (∃ s t : State, s.run = .running ∧ s.nextEvent = .step ∧ step s = .next t ∧
      t.run = .faulted .invariantAddress 0x200 0xD013) ∧
    (∃ s t : State, s.run = .running ∧ s.nextEvent = .step ∧ step s = .next t ∧
      t.run = .faulted .invariantKey 0x200 0xE19E) :=
  ⟨⟨{ State.reset with pc := 0x201 }, _, rfl, rfl, rfl, rfl⟩, ⟨State.reset, _, rfl, rfl, rfl, rfl⟩,
    ⟨poke { State.reset with sp := 16 } 0x200 [0x26, 0x00], _, rfl, rfl, rfl, rfl⟩,
    ⟨poke State.reset 0x200 [0x00, 0xEE], _, rfl, rfl, rfl, rfl⟩,
    ⟨poke { State.reset with i := 0xFFE } 0x200 [0xD0, 0x13], _, rfl, rfl, rfl, rfl⟩,
    ⟨poke (withRegs [(1, 0x10)]) 0x200 [0xE1, 0x9E], _, rfl, rfl, rfl, rfl⟩⟩

/-- A step of a running core that ends in no fault. -/
theorem witness_FaultsHappenExactlyOnTheirConditions :
    ∃ s t : State, s.run = .running ∧ s.nextEvent = .step ∧ step s = .next t ∧ t.run = .running :=
  ⟨poke State.reset 0x200 [0x60, 0x07], _, rfl, rfl, rfl, rfl⟩

theorem witness_OnlyAcceptedResetLeavesFaulted :
    (∃ s t : State, s.run = .faulted .illegalOpcode 0x200 0 ∧ step s = .next t ∧ t.run = s.run) ∧
    (∃ s t : State, s.run = .faulted .illegalOpcode 0x200 0 ∧ step s = .next t ∧ s.nextEvent = .resetReq [0x12] ∧
      t.run = .running) :=
  ⟨⟨{ State.reset with run := .faulted .illegalOpcode 0x200 0 }, _, rfl, rfl, rfl⟩,
    ⟨{ State.reset with run := .faulted .illegalOpcode 0x200 0, events := [.resetReq [0x12]] }, _, rfl, rfl, rfl, rfl⟩⟩

theorem witness_RetPopsIntoPc : (∃ s : State, s.sp.val = 1) ∧ (∃ s : State, s.sp.val = 16) ∧ (∃ s : State, s.sp.val = 0) :=
  ⟨⟨{ State.reset with sp := 1 }, rfl⟩, ⟨{ State.reset with sp := 16 }, rfl⟩, ⟨State.reset, rfl⟩⟩

theorem witness_CallPushesAndJumps :
    (∃ s : State, s.sp.val = 15 ∧ s.sp.val < 16 ∧ ∃ j : Fin 16, j.val ≠ s.sp.val) ∧
    (∃ s : State, s.sp.val = 0) ∧ (∃ s : State, s.sp.val = 16) :=
  ⟨⟨{ State.reset with sp := 15 }, rfl, by decide, 0, by decide⟩, ⟨State.reset, rfl⟩, ⟨{ State.reset with sp := 16 }, rfl⟩⟩

theorem witness_RetAfterCallReturns :
    ∃ s t u : State, s.sp.val = 15 ∧ s.sp.val < 16 ∧ exec (.call 0x300) s = .next t ∧ u.sp = t.sp ∧ u.stack = t.stack ∧
      u.pc ≠ t.pc :=
  ⟨{ State.reset with sp := 15 }, _,
    { State.reset with sp := 16, stack := State.reset.stack.set 15 0x202, pc := 0x400 },
    rfl, by decide, rfl, rfl, by decide, by decide⟩

/-- Both sides of the test of the six skips (also `RegisterSkips`). -/
theorem witness_ImmediateSkips :
    (∃ (x : Nibble) (nn : Byte) (s : State), (s.reg x).toNat = nn.toNat) ∧
    (∃ (x : Nibble) (nn : Byte) (s : State), (s.reg x).toNat ≠ nn.toNat) :=
  ⟨⟨3, 0x12, withRegs [(3, 0x12)], by decide⟩, ⟨3, 0x13, withRegs [(3, 0x12)], by decide⟩⟩

theorem witness_RegisterSkips :
    (∃ (x y : Nibble) (s : State), x ≠ y ∧ (s.reg x).toNat = (s.reg y).toNat) ∧
    (∃ (x y : Nibble) (s : State), (s.reg x).toNat ≠ (s.reg y).toNat) :=
  ⟨⟨1, 2, withRegs [(1, 0x7F), (2, 0x7F)], by decide⟩, ⟨1, 2, withRegs [(1, 1), (2, 2)], by decide⟩⟩

/-- Both values of the flag, with x other than F (sums of 255 and of 256). -/
theorem witness_AddSetsCarry :
    ∃ (x y : Nibble) (s t : State), x ≠ 0xF#4 ∧ (s.reg x).toNat + (s.reg y).toNat = 255 ∧
      (t.reg x).toNat + (t.reg y).toNat = 256 :=
  ⟨0, 1, withRegs [(0, 0xFF)], withRegs [(0, 0xFF), (1, 1)], by decide⟩

/-- Both values of the flag, with x other than F (equal operands, and a borrow). -/
theorem witness_SubtractionsSetNoBorrow :
    ∃ (x y : Nibble) (s t : State), x ≠ 0xF#4 ∧ (s.reg x).toNat = (s.reg y).toNat ∧ (t.reg x).toNat < (t.reg y).toNat :=
  ⟨0, 1, withRegs [(0, 5), (1, 5)], withRegs [(1, 1)], by decide⟩

theorem witness_ShiftsSetShiftedOutBit : ∃ (x : Nibble) (s : State), x ≠ 0xF#4 ∧ (s.reg x).toNat = 0x81 :=
  ⟨2, withRegs [(2, 0x81)], by decide⟩

theorem witness_RandomByteIsMasked : (∃ s : State, s.rndPlan = [0xB7, 0x01]) ∧ (∃ s : State, s.rndPlan = []) :=
  ⟨⟨{ State.reset with rndPlan := [0xB7, 0x01] }, rfl⟩, ⟨State.reset, rfl⟩⟩

theorem witness_BcdIsStored :
    (∃ s : State, s.iAddr + 2 = 0xFFF ∧ s.mem.wf = true ∧ s.iAddr ≠ 0) ∧ (∃ s : State, s.iAddr + 2 = 0x1000) :=
  ⟨⟨{ State.reset with i := 0xFFD }, by decide⟩, ⟨{ State.reset with i := 0xFFE }, by decide⟩⟩

/-- Also the witness of `RegistersAreLoaded`. -/
theorem witness_RegistersAreStored :
    (∃ (x r : Nibble) (s : State), s.iAddr + x.toNat = 0xFFF ∧ s.mem.wf = true ∧ r.toNat = x.toNat) ∧
    (∃ (x : Nibble) (s : State), s.iAddr + x.toNat = 0x1000) :=
  ⟨⟨0xF, 0xF, { State.reset with i := 0xFF0 }, by decide⟩, ⟨0xF, { State.reset with i := 0xFF1 }, by decide⟩⟩

theorem witness_RegistersAreLoaded :
    (∃ (x r q : Nibble) (s : State), s.iAddr + x.toNat = 0xFFF ∧ r.toNat ≤ x.toNat ∧ x.toNat < q.toNat) ∧
    (∃ (x : Nibble) (s : State), s.iAddr + x.toNat = 0x1000) :=
  ⟨⟨1, 1, 2, { State.reset with i := 0xFFE }, by decide⟩, ⟨1, { State.reset with i := 0xFFF }, by decide⟩⟩

theorem witness_StoredBytesAreFetched :
    ∃ (x r q : Nibble) (s t : State) (pc : Word), s.mem.wf = true ∧ s.iAddr + x.toNat ≤ 0xFFF ∧
      exec (.storeRegs x) s = .next t ∧ q.toNat = r.toNat + 1 ∧ q.toNat ≤ x.toNat ∧ pc.toNat = s.iAddr + r.toNat :=
  ⟨1, 0, 1, { withRegs [(0, 0x12), (1, 0x34)] with i := 0xFFE }, _, 0xFFE, by decide, by decide, rfl, by decide,
    by decide, by decide⟩

/-- A pixel of a clear framebuffer is 0. -/
theorem pixel_clearFb (c r : Nat) : pixel clearFb c r = false := by
  simp [pixel, clearFb]

/-- The clauses of `DXYN`: no rows, rows that end at 0xFFF, rows that end above it, a hit and no hit. -/
theorem witness_DrwDrawsAndSetsCollision :
    (∃ (n : Nibble) (s : State), n.toNat = 0 ∧ s.iAddr = 0xFFFF) ∧
    (∃ (n : Nibble) (s : State), n.toNat = 2 ∧ s.iAddr + n.toNat - 1 = 0xFFF) ∧
    (∃ (n : Nibble) (s : State), n.toNat ≥ 1 ∧ s.iAddr + n.toNat - 1 = 0x1000) ∧
    (∃ fb, SpriteHits fb [0x80] 0 0) ∧ (∃ fb, ¬ SpriteHits fb [0x80] 0 0) :=
  ⟨⟨0, { State.reset with i := 0xFFFF }, by decide⟩, ⟨2, { State.reset with i := 0xFFE }, by decide⟩,
    ⟨1, { State.reset with i := 0x1000 }, by decide⟩,
    ⟨clearFb.set 0 0x80, 0, by decide, 0, by decide, by decide⟩,
    ⟨clearFb, fun ⟨c, _, r, _, h, _⟩ => by simp [pixel_clearFb] at h⟩⟩

/-- The bounds of the three statements about `draw`, at their upper ends. -/
theorem witness_BlitterXorsPixelsWithWrap :
    ∃ (rows : List Byte) (x0 y0 c r : Nat), rows.length = 15 ∧ rows.length ≤ 32 ∧ x0 = 63 ∧ x0 < 64 ∧ y0 = 31 ∧ y0 < 32 ∧
      c < 64 ∧ r < 32 ∧ spriteBit rows x0 y0 c r = true :=
  ⟨List.replicate 15 0xFF, 63, 31, 0, 0, by decide⟩

/-- A drawing that collides. -/
theorem witness_CollisionIsAClearedPixel :
    ∃ (fb : Framebuffer) (rows : List Byte) (x0 y0 : Nat), rows.length ≤ 32 ∧ x0 < 64 ∧ y0 < 32 ∧
      (draw fb rows x0 y0).2 = true :=
  ⟨clearFb.set 0 0x0F, [0x18], 0, 0, by decide⟩

theorem witness_DrawingTwiceRestoresTheFramebuffer :
    ∃ (rows : List Byte) (x0 y0 : Nat), rows = [0xFF] ∧ rows.length ≤ 32 ∧ x0 = 60 ∧ x0 < 64 ∧ y0 < 32 :=
  ⟨[0xFF], 60, 0, by decide⟩

theorem witness_KeySkipsSampleOnce :
    (∃ (x : Nibble) (s : State), (s.reg x).toNat = 0xF ∧ s.keysPlan = [0x8000]) ∧
    (∃ (x : Nibble) (s : State), (s.reg x).toNat = 0xF ∧ s.keysPlan = []) ∧
    (∃ (x : Nibble) (s : State), (s.reg x).toNat = 0x10) :=
  ⟨⟨1, { withRegs [(1, 0xF)] with keysPlan := [0x8000] }, by decide⟩, ⟨1, withRegs [(1, 0xF)], by decide⟩,
    ⟨1, withRegs [(1, 0x10)], by decide⟩⟩

theorem witness_KeyPressCompletesTheWait :
    (∃ (s : State) (k x : Nibble), s.nextEvent = .keyPress k ∧ s.run = .waitingKey x) ∧
    (∀ r ∈ [RunState.unreset, .running, .faulted .illegalOpcode 0x200 0],
      ∃ (s : State) (k : Nibble), s.nextEvent = .keyPress k ∧ s.run = r ∧ ∀ x, s.run ≠ .waitingKey x) := by
  refine ⟨⟨{ State.reset with run := .waitingKey 0xF, events := [.keyPress 2] }, 2, 0xF, rfl, rfl⟩, fun r hr => ?_⟩
  refine ⟨{ State.reset with run := r, events := [.keyPress 2] }, 2, rfl, rfl, ?_⟩
  revert hr
  cases r <;> simp

/-- Timers above 0 and at 0, after and before the first reset. -/
theorem witness_TickCountsBothTimersDown :
    (∃ s : State, s.nextEvent = .tick ∧ s.run ≠ .unreset ∧ s.dt.toNat > 0 ∧ s.st.toNat = 0) ∧
    (∃ s : State, s.nextEvent = .tick ∧ s.run ≠ .unreset ∧ s.dt.toNat = 0 ∧ s.st.toNat > 0) ∧
    (∃ s : State, s.nextEvent = .tick ∧ s.run = .unreset) :=
  ⟨⟨{ State.reset with dt := 1, events := [.tick] }, by decide⟩, ⟨{ State.reset with st := 255, events := [.tick] }, by decide⟩,
    ⟨{ State.reset with run := .unreset, events := [.tick] }, by decide⟩⟩

theorem witness_TicksBringTimersToZero :
    ∃ (n : Nat) (s : State) (rest : List Event), s.run ≠ .unreset ∧ s.events = List.replicate n .tick ++ rest ∧ n = 11 ∧
      s.dt = 10 ∧ s.st = 255 :=
  ⟨11, { State.reset with dt := 10, st := 255, events := List.replicate 11 .tick ++ [.step] }, [.step], by decide, rfl, rfl,
    rfl, rfl⟩

/-- The longest ROM that fits, the empty one, an address in each range, and a FONT that is not the default. -/
theorem witness_AcceptedResetSetsEveryField :
    (∃ (s : State) (a : Nat) (_ : a < 80), s.nextEvent = .resetReq [0x12] ∧ a = 79 ∧ s.font[a] = 0x7E) ∧
    (∃ (s : State) (rom : List Byte), s.nextEvent = .resetReq rom ∧ rom.length = 3584 ∧ rom.length ≤ 3584) ∧
    (∃ (s : State) (rom : List Byte) (a : Nat), s.nextEvent = .resetReq rom ∧ rom.length ≤ 3584 ∧
      0x200 + rom.length ≤ a ∧ a ≤ 0xFFF) :=
  ⟨⟨{ State.reset with font := defaultFont.set 79 0x7E, events := [.resetReq [0x12]] }, 79, by decide, rfl, rfl, by decide⟩,
    ⟨{ State.reset with events := [.resetReq (List.replicate 3584 0xAA)] }, List.replicate 3584 0xAA, rfl,
      List.length_replicate, Nat.le_of_eq List.length_replicate⟩,
    ⟨{ State.reset with events := [.resetReq []] }, [], 0xFFF, rfl, by decide, by decide, by decide⟩⟩

theorem witness_OversizedRomIsRefused :
    ∃ (s : State) (rom : List Byte), s.nextEvent = .resetReq rom ∧ rom.length = 3585 ∧ rom.length > 3584 :=
  ⟨{ State.reset with events := [.resetReq (List.replicate 3585 0xAA)] }, List.replicate 3585 0xAA, rfl,
    List.length_replicate, by rw [List.length_replicate]; decide⟩

theorem witness_FontIsChangedByNoEvent :
    ∃ s t : State, step s = .next t ∧ s.nextEvent = .resetReq [] ∧ s.font ≠ defaultFont :=
  ⟨{ State.reset with font := defaultFont.set 0 0x3C, events := [.resetReq []] }, _, rfl, rfl, by decide⟩

theorem witness_TenFamiliesDecodeByTheFamilyNibbleAlone :
    ∃ w w' : Word, w.toNat / 4096 ∈ [1, 2, 3, 4, 6, 7, 0xA, 0xB, 0xC, 0xD] ∧ w'.toNat / 4096 = w.toNat / 4096 ∧ w ≠ w' :=
  ⟨0xD000, 0xDFFF, by decide⟩

/-- The highest PC, even and with an instruction there, and an odd PC. -/
theorem witness_FetchIsBigEndianAndChangesNothing :
    (∃ (s : State) (i : Instr), s.pc.toNat = 0xFFE ∧ s.pc.toNat + 1 ≤ 0xFFF ∧ s.pc.toNat % 2 = 0 ∧
      decode s.fetch = .instr i) ∧
    (∃ s : State, s.pc.toNat = 0x201 ∧ s.pc.toNat + 1 ≤ 0xFFF) :=
  ⟨⟨poke { State.reset with pc := 0xFFE } 0xFFE [0x60, 0x07], .ldImm 0 7, by decide⟩,
    ⟨{ State.reset with pc := 0x201 }, by decide⟩⟩

theorem witness_RegistersChangeOnlyAtDestinations :
    ∃ (i : Instr) (s t : State) (r : Nibble), exec i s = .next t ∧ r ∉ destinations i ∧ i = .loadRegs 0xE ∧ r = 0xF :=
  ⟨.loadRegs 0xE, State.reset, _, 0xF, rfl, by decide, rfl, rfl⟩

theorem witness_StackChangesOnlyByCallAndRet :
    (∃ s t : State, exec .ret s = .next t ∧ t.sp ≠ s.sp) ∧
    (∃ s t : State, exec (.call 0x300) s = .next t ∧ t.sp ≠ s.sp ∧ t.stack ≠ s.stack) := by
  refine ⟨⟨{ State.reset with sp := 1 }, _, rfl, by decide⟩, ⟨State.reset, _, rfl, by decide, by decide⟩⟩

theorem witness_IndexAndTimersChangeOnlyByTheirWriters :
    (∃ s t : State, exec (.ldI 0xFFF) s = .next t ∧ t.i ≠ s.i) ∧
    (∃ s t : State, exec (.ldDtVx 1) s = .next t ∧ t.dt ≠ s.dt) ∧
    (∃ s t : State, exec (.ldStVx 1) s = .next t ∧ t.st ≠ s.st) :=
  ⟨⟨State.reset, _, rfl, by decide⟩, ⟨withRegs [(1, 2)], _, rfl, by decide⟩, ⟨withRegs [(1, 2)], _, rfl, by decide⟩⟩

theorem witness_MemoryChangesOnlyByStores :
    (∃ s t : State, exec (.ldB 0) s = .next t ∧ t.mem.read (s.iAddr + 2) ≠ s.mem.read (s.iAddr + 2)) ∧
    (∃ s t : State, exec (.storeRegs 1) s = .next t ∧ t.mem.read (s.iAddr + 1) ≠ s.mem.read (s.iAddr + 1)) :=
  ⟨⟨{ withRegs [(0, 0xFF)] with i := 0xFFD }, _, rfl, by decide⟩, ⟨{ withRegs [(1, 0xFF)] with i := 0xFFE }, _, rfl, by decide⟩⟩

theorem witness_FramebufferChangesOnlyByDrawAndClear :
    ∃ s t : State, exec .cls s = .next t ∧ (t.fb ≠ s.fb ∨ t.drawEvents ≠ s.drawEvents) :=
  ⟨State.reset, _, rfl, Or.inr (by decide)⟩

theorem witness_PcAdvancesByTwoElsewhere :
    ∃ (i : Instr) (s t : State), setsPc i = false ∧ exec i s = .next t ∧ t.run = s.run ∧ s.run = .running ∧ s.pc = 0xFFFE :=
  ⟨.ldImm 0 7, { State.reset with pc := 0xFFFE }, _, rfl, rfl, rfl, rfl, rfl⟩

theorem witness_SoundTimerIsReadByNoInstruction :
    (∃ s t : State, exec (.ldStVx 1) s = .next t) ∧ (∃ s t : State, exec (.ldVxDt 1) s = .next t) :=
  ⟨⟨State.reset, _, rfl⟩, ⟨State.reset, _, rfl⟩⟩

theorem witness_FramebufferIsReadOnlyByDraw :
    (∃ s t : State, (∀ x y n, Instr.cls ≠ .drw x y n) ∧ exec .cls s = .next t) ∧
    (∃ s t : State, (∀ x y n, Instr.ldF 3 ≠ .drw x y n) ∧ exec (.ldF 3) s = .next t) :=
  ⟨⟨State.reset, _, by simp, rfl⟩, ⟨State.reset, _, by simp, rfl⟩⟩

/-- A transition of each of the three kinds. -/
theorem witness_SoundTransitionsHaveThreeSources :
    (∃ s t : State, step s = .next t ∧ soundTransition s t = true ∧ s.nextEvent = .tick) ∧
    (∃ s t : State, step s = .next t ∧ soundTransition s t = true ∧ s.nextEvent = .resetReq []) ∧
    (∃ s t : State, step s = .next t ∧ soundTransition s t = true ∧ s.nextEvent = .step) :=
  ⟨⟨{ State.reset with st := 1, events := [.tick] }, _, rfl, by decide, rfl⟩,
    ⟨{ State.reset with st := 1, events := [.resetReq []] }, _, rfl, by decide, rfl⟩,
    ⟨poke (withRegs [(1, 2)]) 0x200 [0xF1, 0x18], _, rfl, by decide, rfl⟩⟩

/-- A state that meets the invariant, in each run state it speaks of. -/
theorem witness_EveryStepKeepsTheInvariant :
    (∃ s t : State, s.Inv ∧ step s = .next t ∧ s.run = .running ∧ s.i = 0xFFF) ∧
    (∃ s t : State, s.Inv ∧ step s = .next t ∧ s.run = .waitingKey 3) ∧
    (∃ s t : State, s.Inv ∧ step s = .next t ∧ s.run = .faulted .illegalOpcode 0x200 0) :=
  ⟨⟨{ poke State.reset 0x200 [0x60, 0x07] with i := 0xFFF }, _, fun _ => ⟨by decide, by decide, trivial⟩, rfl, rfl, rfl⟩,
    ⟨{ poke State.reset 0x200 [0xF3, 0x0A] with run := .waitingKey 3 }, _,
      fun _ => ⟨by decide, by decide, by decide, by decide⟩, rfl, rfl⟩,
    ⟨{ State.reset with run := .faulted .illegalOpcode 0x200 0 }, _,
      fun _ => ⟨by decide, by decide, ⟨by decide, by decide⟩, rfl, by decide⟩, rfl, rfl⟩⟩

end Sys2Proof.Tests
end

section
/-! PROOF. The parameter FONT under every event (00_scope.md R6, 10_state.md R35). Every event but an
accepted reset updates the state it finds, and no update writes `font`; the reset alone builds a new state, and it takes
over the font of the old one. -/

namespace Sys2Proof.Machine

/-- What is true of the state a result names is true of the state it answers. -/
theorem Result.next_induction {t u : State} (P : State → Prop) (h : (.next u : Result) = .next t) (hu : P u) : P t :=
  Host.Outcome.next.inj h ▸ hu

/-- A checked instruction ends either in its fault or in the state `f a` for what its check gave: a property of both is
one of the state it ends in. -/
theorem State.orRaise_next_induction {α : Type} {s t : State} {r : Option α} {c : Cause} {w : Word} {f : α → State}
    (P : State → Prop) (h : s.orRaise r c w (fun a => .next (f a)) = .next t) (hfault : P (s.faultedAt c w))
    (hdone : ∀ a, r = some a → P (f a)) : P t := by
  obtain ⟨a, ha, hnext⟩ | ⟨-, rfl⟩ := (s.orRaise_eq_next t r c w _).1 h
  · exact Result.next_induction P hnext (hdone a ha)
  · exact hfault

/-- A key skip ends in the key fault for an index above 0xF, and otherwise in the skip after one sample (R230, R231). -/
theorem State.keySkip_eq_next (s t : State) (x : Nibble) (level : Bool) (w : Word) :
    s.keySkip x level w = .next t ↔
      ((s.reg x).toNat > 0xF ∧ t = s.faultedAt .invariantKey w) ∨
        (¬ (s.reg x).toNat > 0xF ∧ t = s.afterKeysSample.skipIf (keyDown s.keysSample (s.reg x) == level)) := by
  unfold State.keySkip
  split
  · next h => simp [h, State.raise, eq_comm]
  · next h => simp [h, eq_comm]

section Font

variable {s t : State}

theorem State.push_font {w : Word} (h : s.push w = some t) : t.font = s.font := by
  obtain ⟨_, rfl⟩ := (s.push_eq_some t w).1 h
  rfl

theorem State.pop_font {w : Word} (h : s.pop = some (w, t)) : t.font = s.font := by
  obtain ⟨_, -, rfl⟩ := (s.pop_eq_some t w).1 h
  rfl

theorem State.storeBytes_font {a : Nat} {bs : List Byte} (h : s.storeBytes a bs = some t) : t.font = s.font := by
  obtain ⟨-, rfl⟩ := (s.storeBytes_eq_some t a bs).1 h
  rfl

theorem State.keySkip_font {x : Nibble} {level : Bool} {w : Word} (h : s.keySkip x level w = .next t) :
    t.font = s.font := by
  obtain ⟨-, rfl⟩ | ⟨-, rfl⟩ := (s.keySkip_eq_next t x level w).1 h <;> simp

/-- No instruction changes FONT, whether it completes or ends in a fault. -/
theorem exec_font {i : Instr} (h : exec i s = .next t) : t.font = s.font := by
  cases i with
  | ret => exact State.orRaise_next_induction (·.font = s.font) h rfl fun _ => State.pop_font
  | call => exact State.orRaise_next_induction (·.font = s.font) h rfl fun _ => State.push_font
  | ldB | storeRegs =>
    exact State.orRaise_next_induction (·.font = s.font) h rfl fun _ => State.storeBytes_font
  | drw | loadRegs => exact State.orRaise_next_induction (·.font = s.font) h rfl fun _ _ => rfl
  | skp | sknp => exact State.keySkip_font h
  | cls | jp | jpV0 | seImm | sneImm | seReg | sneReg
  | ldImm | addImm | rnd | ldI | addI | ldF | ldVxDt | ldDtVx | ldStVx | ldVxK
  | ldReg | orReg | andReg | xorReg | addReg | subReg | shr | subn | shl =>
    exact Result.next_induction (·.font = s.font) h rfl

/-- A cycle executes an instruction or takes one of the two faults that come before any (R85, R96). -/
theorem fetchExecute_font (h : fetchExecute s = .next t) : t.font = s.font := by
  unfold fetchExecute at h
  split at h
  · split at h
    · exact exec_font h
    · exact Result.next_induction (·.font = s.font) h rfl
  · exact Result.next_induction (·.font = s.font) h rfl

theorem stepEvent_font (h : stepEvent s = .next t) : t.font = s.font := by
  unfold stepEvent at h
  split at h
  case h_1 => exact fetchExecute_font h
  all_goals exact Result.next_induction (·.font = s.font) h rfl

variable (s)

@[simp] theorem tick_font : (tick s).font = s.font := by
  unfold tick
  split <;> rfl

@[simp] theorem keyPress_font (k : Nibble) : (keyPress k s).font = s.font := by
  unfold keyPress
  split <;> rfl

/-- An accepted reset takes over the font of the old state; a refused one changes only the answer (R300, R301). -/
@[simp] theorem resetReq_font (rom : List Byte) : (resetReq rom s).font = s.font := by
  unfold resetReq
  split <;> rfl

variable {s}

theorem deliver_font {e : Event} (h : deliver e s = .next t) : t.font = s.font := by
  cases e with
  | step => exact stepEvent_font h
  | tick => exact Result.next_induction (·.font = s.font) h (tick_font s)
  | keyPress k => exact Result.next_induction (·.font = s.font) h (keyPress_font s k)
  | resetReq rom => exact Result.next_induction (·.font = s.font) h (resetReq_font s rom)

end Font

/-- Settles O58: taking the event off the list keeps the font, and so does delivering it, whichever event it is. -/
theorem fontIsChangedByNoEvent : Obligations.FontIsChangedByNoEvent := by
  intro s t h
  calc t.font = s.takeEvent.font := deliver_font (step_eq s ▸ h)
    _ = s.font := State.takeEvent_font s

end Sys2Proof.Machine
end

section
/-! PROOF. The frame of every instruction: the parts of the state it may write, whether it completes or ends in its
fault (10_state.md R21-R30, R48). One lemma per update says which part the update writes; the frame of an instruction
is composed of them, and what changes a part is read off the list `writtenParts`. -/

namespace Sys2Proof.Machine

namespace ChangesOnly

variable {ps : List Part} {s t : State}

/-- A part that differs is one of those a change is confined to. -/
theorem mem_of_not_kept {p : Part} (h : ChangesOnly ps s t) (hp : ¬ p.kept s t) : p ∈ ps :=
  not_imp_comm.1 (h p) hp

theorem setReg (x : Nibble) (b : Byte) (h : ChangesOnly ps s t) (hx : .reg x ∈ ps) :
    ChangesOnly ps s (t.setReg x b) :=
  h.trans fun p hp => by
    cases p with
    | reg r => simp [Part.kept, show r ≠ x from fun e => hp (e ▸ hx)]
    | _ => simp [Part.kept]

theorem setFlag (f : Bool) (h : ChangesOnly ps s t) (hx : .reg regVF ∈ ps) : ChangesOnly ps s (t.setFlag f) :=
  h.setReg regVF (flagByte f) hx

/-- Loading the bytes into V0, V1, … writes the registers below their number. -/
theorem setRegs (bs : List Byte) (h : ChangesOnly ps s t) (hx : ∀ r : Nibble, r.toNat < bs.length → .reg r ∈ ps) :
    ChangesOnly ps s (t.setRegs bs) :=
  h.trans fun p hp => by
    cases p with
    | reg r =>
      have hr : bs.length ≤ r.toNat := not_lt.1 fun hlt => hp (hx r hlt)
      simp [Part.kept, State.reg_setRegs, List.getElem?_eq_none hr]
    | _ => simp [Part.kept]

theorem setI (w : Word) (h : ChangesOnly ps s t) (hi : .i ∈ ps) : ChangesOnly ps s (t.setI w) :=
  h.trans fun p hp => by cases p <;> simp_all [Part.kept]

theorem setPc (w : Word) (h : ChangesOnly ps s t) (hpc : .pc ∈ ps) : ChangesOnly ps s (t.setPc w) :=
  h.trans fun p hp => by cases p <;> simp_all [Part.kept]

theorem advance (h : ChangesOnly ps s t) (hpc : .pc ∈ ps) : ChangesOnly ps s t.advance := h.setPc _ hpc

theorem skipIf (c : Bool) (h : ChangesOnly ps s t) (hpc : .pc ∈ ps) : ChangesOnly ps s (t.skipIf c) := h.setPc _ hpc

theorem setDt (b : Byte) (h : ChangesOnly ps s t) (hdt : .dt ∈ ps) : ChangesOnly ps s (t.setDt b) :=
  h.trans fun p hp => by cases p <;> simp_all [Part.kept]

theorem setSt (b : Byte) (h : ChangesOnly ps s t) (hst : .st ∈ ps) : ChangesOnly ps s (t.setSt b) :=
  h.trans fun p hp => by cases p <;> simp_all [Part.kept]

theorem setFb (f : Framebuffer) (h : ChangesOnly ps s t) (hfb : .fb ∈ ps) : ChangesOnly ps s (t.setFb f) :=
  h.trans fun p hp => by cases p <;> simp_all [Part.kept]

theorem setRun (q : RunState) (h : ChangesOnly ps s t) (hrun : .run ∈ ps) : ChangesOnly ps s (t.setRun q) :=
  h.trans fun p hp => by cases p <;> simp_all [Part.kept]

theorem faultedAt (c : Cause) (w : Word) (h : ChangesOnly ps s t) (hrun : .run ∈ ps) :
    ChangesOnly ps s (t.faultedAt c w) := h.setRun _ hrun

theorem emitDraw (h : ChangesOnly ps s t) (hd : .drawEvents ∈ ps) : ChangesOnly ps s t.emitDraw :=
  h.trans fun p hp => by cases p <;> simp_all [Part.kept]

theorem afterRndSample (h : ChangesOnly ps s t) (hplan : .rndPlan ∈ ps) (hk : .samples ∈ ps) :
    ChangesOnly ps s t.afterRndSample :=
  h.trans fun p hp => by cases p <;> simp_all [Part.kept]

theorem afterKeysSample (h : ChangesOnly ps s t) (hplan : .keysPlan ∈ ps) (hk : .samples ∈ ps) :
    ChangesOnly ps s t.afterKeysSample :=
  h.trans fun p hp => by cases p <;> simp_all [Part.kept]

theorem of_push {w : Word} (h : s.push w = some t) (hstack : .stack ∈ ps) (hsp : .sp ∈ ps) : ChangesOnly ps s t := by
  obtain ⟨_, rfl⟩ := (s.push_eq_some t w).1 h
  intro p hp
  cases p <;> simp_all [Part.kept, State.reg]

theorem of_pop {w : Word} (h : s.pop = some (w, t)) (hsp : .sp ∈ ps) : ChangesOnly ps s t := by
  obtain ⟨_, -, rfl⟩ := (s.pop_eq_some t w).1 h
  intro p hp
  cases p <;> simp_all [Part.kept, State.reg]

theorem of_storeBytes {a : Nat} {bs : List Byte} (h : s.storeBytes a bs = some t) (hmem : .mem ∈ ps) :
    ChangesOnly ps s t := by
  obtain ⟨-, rfl⟩ := (s.storeBytes_eq_some t a bs).1 h
  intro p hp
  cases p <;> simp_all [Part.kept, State.reg]

theorem of_keySkip {x : Nibble} {level : Bool} {w : Word} (h : s.keySkip x level w = .next t) (hpc : .pc ∈ ps)
    (hrun : .run ∈ ps) (hplan : .keysPlan ∈ ps) (hk : .samples ∈ ps) : ChangesOnly ps s t := by
  obtain ⟨-, rfl⟩ | ⟨-, rfl⟩ := (s.keySkip_eq_next t x level w).1 h
  · exact (refl ps s).faultedAt _ _ hrun
  · exact ((refl ps s).afterKeysSample hplan hk).skipIf _ hpc

end ChangesOnly

/-- The parts other than general registers that an instruction may write, its fault (`run`) included. -/
def otherWrittenParts : Instr → List Part
  | .cls => [.fb, .drawEvents, .pc]
  | .drw _ _ _ => [.fb, .drawEvents, .pc, .run]
  | .ret => [.sp, .pc, .run]
  | .call _ => [.stack, .sp, .pc, .run]
  | .ldI _ | .addI _ | .ldF _ => [.i, .pc]
  | .rnd _ _ => [.rndPlan, .samples, .pc]
  | .skp _ | .sknp _ => [.keysPlan, .samples, .pc, .run]
  | .ldVxK _ => [.run]
  | .ldDtVx _ => [.dt, .pc]
  | .ldStVx _ => [.st, .pc]
  | .ldB _ | .storeRegs _ => [.mem, .pc, .run]
  | .loadRegs _ => [.pc, .run]
  | _ => [.pc]

/-- The parts an instruction may write: its destinations (R21, R22) and the parts other than general registers. -/
def writtenParts (i : Instr) : List Part := (destinations i).map .reg ++ otherWrittenParts i

section membership

variable (i : Instr)

theorem reg_mem_writtenParts (r : Nibble) : .reg r ∈ writtenParts i ↔ r ∈ destinations i := by
  have : .reg r ∉ otherWrittenParts i := by cases i <;> simp [otherWrittenParts]
  simp [writtenParts, this]

/-- A part that is no general register is written exactly when it stands in the second half of the list. -/
theorem mem_writtenParts_of_not_reg {p : Part} (hp : ∀ r, p ≠ .reg r) :
    p ∈ writtenParts i ↔ p ∈ otherWrittenParts i := by
  simp [writtenParts, fun r => (hp r).symm]

theorem sp_mem_writtenParts : .sp ∈ writtenParts i ↔ i = .ret ∨ ∃ nnn, i = .call nnn := by
  rw [mem_writtenParts_of_not_reg i (by simp)]
  cases i <;> simp [otherWrittenParts]

theorem stack_mem_writtenParts : .stack ∈ writtenParts i ↔ ∃ nnn, i = .call nnn := by
  rw [mem_writtenParts_of_not_reg i (by simp)]
  cases i <;> simp [otherWrittenParts]

theorem i_mem_writtenParts :
    .i ∈ writtenParts i ↔ (∃ nnn, i = .ldI nnn) ∨ (∃ x, i = .addI x) ∨ (∃ x, i = .ldF x) := by
  rw [mem_writtenParts_of_not_reg i (by simp)]
  cases i <;> simp [otherWrittenParts]

theorem dt_mem_writtenParts : .dt ∈ writtenParts i ↔ ∃ x, i = .ldDtVx x := by
  rw [mem_writtenParts_of_not_reg i (by simp)]
  cases i <;> simp [otherWrittenParts]

theorem st_mem_writtenParts : .st ∈ writtenParts i ↔ ∃ x, i = .ldStVx x := by
  rw [mem_writtenParts_of_not_reg i (by simp)]
  cases i <;> simp [otherWrittenParts]

theorem fb_mem_writtenParts : .fb ∈ writtenParts i ↔ i = .cls ∨ ∃ x y n, i = .drw x y n := by
  rw [mem_writtenParts_of_not_reg i (by simp)]
  cases i <;> simp [otherWrittenParts]

theorem drawEvents_mem_writtenParts : .drawEvents ∈ writtenParts i ↔ i = .cls ∨ ∃ x y n, i = .drw x y n := by
  rw [mem_writtenParts_of_not_reg i (by simp)]
  cases i <;> simp [otherWrittenParts]

end membership

/-- The destinations of `FX65` are V0..Vx (R183). -/
theorem mem_destinations_loadRegs (x r : Nibble) : r ∈ destinations (.loadRegs x) ↔ r.toNat ≤ x.toNat := by
  simp only [destinations, List.mem_map, List.mem_range]
  constructor
  · rintro ⟨k, hk, rfl⟩
    simp
    omega
  · exact fun hr => ⟨r.toNat, by omega, by simp⟩

/-- Whatever an instruction answers, it differs from the state before in the written parts alone. -/
theorem exec_changesOnly {i : Instr} {s t : State} (h : exec i s = .next t) : ChangesOnly (writtenParts i) s t := by
  have start := ChangesOnly.refl (writtenParts i) s
  cases i with
  | ldReg | orReg | andReg | xorReg | ldImm | addImm | ldVxDt =>
    refine Result.next_induction (ChangesOnly _ s) h ((start.setReg _ _ ?_).advance ?_) <;>
      simp [writtenParts, otherWrittenParts, destinations]
  | addReg | subReg | shr | subn | shl =>
    refine Result.next_induction (ChangesOnly _ s) h (((start.setReg _ _ ?_).setFlag _ ?_).advance ?_) <;>
      simp [writtenParts, otherWrittenParts, destinations, regVF]
  | rnd =>
    refine Result.next_induction (ChangesOnly _ s) h (((start.afterRndSample ?_ ?_).setReg _ _ ?_).advance ?_) <;>
      simp [writtenParts, otherWrittenParts, destinations]
  | jp | jpV0 =>
    exact Result.next_induction (ChangesOnly _ s) h (start.setPc _ (by simp [writtenParts, otherWrittenParts]))
  | seImm | sneImm | seReg | sneReg =>
    exact Result.next_induction (ChangesOnly _ s) h (start.skipIf _ (by simp [writtenParts, otherWrittenParts]))
  | ldI | addI | ldF =>
    refine Result.next_induction (ChangesOnly _ s) h ((start.setI _ ?_).advance ?_) <;>
      simp [writtenParts, otherWrittenParts]
  | ldDtVx =>
    refine Result.next_induction (ChangesOnly _ s) h ((start.setDt _ ?_).advance ?_) <;>
      simp [writtenParts, otherWrittenParts]
  | ldStVx =>
    refine Result.next_induction (ChangesOnly _ s) h ((start.setSt _ ?_).advance ?_) <;>
      simp [writtenParts, otherWrittenParts]
  | ldVxK =>
    exact Result.next_induction (ChangesOnly _ s) h (start.setRun _ (by simp [writtenParts, otherWrittenParts]))
  | cls =>
    refine Result.next_induction (ChangesOnly _ s) h (((start.setFb _ ?_).advance ?_).emitDraw ?_) <;>
      simp [writtenParts, otherWrittenParts]
  | drw =>
    refine State.orRaise_next_induction (ChangesOnly _ s) h (start.faultedAt _ _ ?_)
      fun _ _ => (((start.setFb _ ?_).setFlag _ ?_).advance ?_).emitDraw ?_ <;>
      simp [writtenParts, otherWrittenParts, destinations, regVF]
  | ret =>
    refine State.orRaise_next_induction (ChangesOnly _ s) h (start.faultedAt _ _ ?_)
      fun _ hpop => (ChangesOnly.of_pop hpop ?_).setPc _ ?_ <;> simp [writtenParts, otherWrittenParts]
  | call =>
    refine State.orRaise_next_induction (ChangesOnly _ s) h (start.faultedAt _ _ ?_)
      fun _ hpush => (ChangesOnly.of_push hpush ?_ ?_).setPc _ ?_ <;> simp [writtenParts, otherWrittenParts]
  | ldB | storeRegs =>
    refine State.orRaise_next_induction (ChangesOnly _ s) h (start.faultedAt _ _ ?_)
      fun _ hstore => (ChangesOnly.of_storeBytes hstore ?_).advance ?_ <;> simp [writtenParts, otherWrittenParts]
  | loadRegs x =>
    have hpc : .pc ∈ writtenParts (.loadRegs x) := by simp [writtenParts, otherWrittenParts]
    have hrun : .run ∈ writtenParts (.loadRegs x) := by simp [writtenParts, otherWrittenParts]
    refine State.orRaise_next_induction (ChangesOnly _ s) h (start.faultedAt _ _ hrun)
      fun bytes hload => (start.setRegs _ fun r hr => ?_).advance hpc
    obtain ⟨-, rfl⟩ := (s.loadBytes_eq_some _ _ _).1 hload
    rw [Memory.length_readBytes] at hr
    rw [reg_mem_writtenParts, mem_destinations_loadRegs]
    omega
  | skp | sknp => refine ChangesOnly.of_keySkip h ?_ ?_ ?_ ?_ <;> simp [writtenParts, otherWrittenParts]

/-- Settles O47: a register that is no destination is no written part. -/
theorem registersChangeOnlyAtDestinations : Obligations.RegistersChangeOnlyAtDestinations := by
  intro i s t r h hr
  exact exec_changesOnly h (.reg r) (mt (reg_mem_writtenParts i r).1 hr)

/-- Settles O48: SP and the stack are written parts of those instructions alone. -/
theorem stackChangesOnlyByCallAndRet : Obligations.StackChangesOnlyByCallAndRet := by
  intro i s t h
  have hframe := exec_changesOnly h
  exact ⟨fun hsp => (sp_mem_writtenParts i).1 (hframe.mem_of_not_kept hsp),
    fun hstack => (stack_mem_writtenParts i).1 (hframe.mem_of_not_kept hstack)⟩

/-- `ANNN` leaves a 12-bit address in I (R163). -/
theorem zextAddr_le (nnn : Addr) : (zextAddr nnn).toNat ≤ 0xFFF := by
  have := nnn.isLt
  simp [zextAddr]
  omega

/-- `FX1E` keeps the low 12 bits (R164). -/
theorem indexSum_le (i : Word) (a : Byte) : (indexSum i a).toNat ≤ 0xFFF := by
  simpa [indexSum] using Nat.and_le_right

/-- The glyph address as a number: a byte times 5 does not wrap at 16 bits (R184). -/
theorem glyphAddress_toNat (a : Byte) : (glyphAddress a).toNat = a.toNat * 5 := by
  have hzext : (zextByte a).toNat = a.toNat := BitVec.toNat_setWidth_of_le (by decide)
  have hlt : a.toNat * 5 < 2 ^ 16 := by omega
  rw [glyphAddress, BitVec.toNat_mul, hzext]
  exact Nat.mod_eq_of_lt hlt

/-- The three writers of I leave at most 0xFFF in it (R23). -/
theorem exec_i_le_of_mem_writtenParts {i : Instr} {s t : State} (h : exec i s = .next t) (hi : .i ∈ writtenParts i) :
    t.i.toNat ≤ 0xFFF := by
  obtain ⟨nnn, rfl⟩ | ⟨x, rfl⟩ | ⟨x, rfl⟩ := (i_mem_writtenParts i).1 hi
  · exact Result.next_induction (·.i.toNat ≤ 0xFFF) h (zextAddr_le nnn)
  · exact Result.next_induction (·.i.toNat ≤ 0xFFF) h (indexSum_le s.i (s.reg x))
  · refine Result.next_induction (·.i.toNat ≤ 0xFFF) h ?_
    have := (s.reg x).isLt
    rw [State.advance_i, State.setI_i, glyphAddress_toNat]
    omega

/-- Settles O49: I, DT and ST are written parts of their writers alone. -/
theorem indexAndTimersChangeOnlyByTheirWriters : Obligations.IndexAndTimersChangeOnlyByTheirWriters := by
  intro i s t h
  have hframe := exec_changesOnly h
  refine ⟨fun hi => ?_, fun hdt => (dt_mem_writtenParts i).1 (hframe.mem_of_not_kept hdt),
    fun hst => (st_mem_writtenParts i).1 (hframe.mem_of_not_kept hst)⟩
  have hmem := hframe.mem_of_not_kept (p := .i) hi
  exact ⟨(i_mem_writtenParts i).1 hmem, exec_i_le_of_mem_writtenParts h hmem⟩

/-- A draw either faults and leaves the framebuffer and the count of pulses, or emits one pulse (R205, R207). -/
theorem execDrw_drawEvents {x y n : Nibble} {s t : State} (h : execDrw x y n s = .next t) :
    (t.fb = s.fb ∧ t.drawEvents = s.drawEvents) ∨ t.drawEvents = s.drawEvents + 1 :=
  State.orRaise_next_induction
    (fun u => (u.fb = s.fb ∧ u.drawEvents = s.drawEvents) ∨ u.drawEvents = s.drawEvents + 1) h
    (.inl ⟨rfl, rfl⟩) fun _ _ => .inr rfl

/-- Settles O51: the framebuffer and the count of pulses are written parts of the two display instructions alone, and a
draw that changes either has not faulted. -/
theorem framebufferChangesOnlyByDrawAndClear : Obligations.FramebufferChangesOnlyByDrawAndClear := by
  intro i s t h hchange
  have hframe := exec_changesOnly h
  have hi : i = .cls ∨ ∃ x y n, i = .drw x y n := by
    rcases hchange with hfb | hdraw
    · exact (fb_mem_writtenParts i).1 (hframe.mem_of_not_kept hfb)
    · exact (drawEvents_mem_writtenParts i).1 (hframe.mem_of_not_kept hdraw)
  refine ⟨hi, ?_⟩
  obtain rfl | ⟨x, y, n, rfl⟩ := hi
  · exact Result.next_induction (·.drawEvents = s.drawEvents + 1) h rfl
  · obtain ⟨hfb, hdraw⟩ | hpulse := execDrw_drawEvents h
    · exact absurd hchange (by simp [hfb, hdraw])
    · exact hpulse

end Sys2Proof.Machine
end

section
/-! PROOF. The word of a decoded instruction (30_encoding.md R81, R83, R94): a legal word is the word of the instruction
it decodes to, where the instruction uses all its bits. It is what makes the word that a faulting instruction records the
fetched one (60_exceptions.md R271; log 8). -/

namespace Sys2Proof

section fields

variable {w : Word} {f : Nibble} (hf : fieldFamily w = f)

include hf

/-- A word is its family and its address field. -/
theorem append_nnn_of_family : (f ++ fieldNnn w : Word) = w := by
  apply BitVec.eq_of_toNat_eq
  rw [word_nnn_toNat, ← hf, fieldFamily_toNat, fieldNnn_toNat]
  omega

/-- A word is its family, its x and its low byte. -/
theorem append_xnn_of_family : (f ++ fieldX w ++ fieldNn w : Word) = w := by
  apply BitVec.eq_of_toNat_eq
  rw [word_xnn_toNat, ← hf, fieldFamily_toNat, fieldX_toNat, fieldNn_toNat]
  omega

/-- A word is its family, its x, its y and its low nibble. -/
theorem append_xyn_of_family : (f ++ fieldX w ++ fieldY w ++ fieldN w : Word) = w := by
  apply BitVec.eq_of_toNat_eq
  rw [word_xyn_toNat, ← hf, fieldFamily_toNat, fieldX_toNat, fieldY_toNat, fieldN_toNat]
  omega

end fields

/-- `SHR` and `SHL`, the two instructions with a field that is no operand (R95). -/
def Instr.ignoresY : Instr → Bool
  | .shr _ | .shl _ => true
  | _ => false

theorem encode_of_decodeFamily8 {n x y : Nibble} {i : Instr} (h : decodeFamily8 n x y = .instr i)
    (hy : i.ignoresY = false) : encode i = (0x8#4 ++ x ++ y ++ n : Word) := by
  unfold decodeFamily8 at h
  split at h <;> cases h <;> simp [encode, Instr.ignoresY] at hy ⊢

theorem encode_of_decodeFamilyE {nn : Byte} {x : Nibble} {i : Instr} (h : decodeFamilyE nn x = .instr i) :
    encode i = (0xE#4 ++ x ++ nn : Word) := by
  unfold decodeFamilyE at h
  split at h <;> cases h <;> rfl

theorem encode_of_decodeFamilyF {nn : Byte} {x : Nibble} {i : Instr} (h : decodeFamilyF nn x = .instr i) :
    encode i = (0xF#4 ++ x ++ nn : Word) := by
  unfold decodeFamilyF at h
  split at h <;> cases h <;> rfl

/-- The encoder gives back the word an instruction was decoded from, family by family. -/
theorem encode_of_decode {w : Word} {i : Instr} (h : decode w = .instr i) (hy : i.ignoresY = false) : encode i = w := by
  unfold decode at h
  split at h
  case h_1 =>
    split at h
    · next hw => cases h; exact hw.symm
    · split at h
      · next hw => cases h; exact hw.symm
      · cases h
  case h_2 hf | h_3 hf | h_11 hf | h_12 hf => cases h; exact append_nnn_of_family hf
  case h_4 hf | h_5 hf | h_7 hf | h_8 hf | h_13 hf => cases h; exact append_xnn_of_family hf
  case h_6 hf | h_10 hf =>
    split at h
    · next hn =>
      have hw := append_xyn_of_family hf
      cases h
      rwa [hn] at hw
    · cases h
  case h_9 hf => exact (encode_of_decodeFamily8 h hy).trans (append_xyn_of_family hf)
  case h_14 hf => cases h; exact append_xyn_of_family hf
  case h_15 hf => exact (encode_of_decodeFamilyE h).trans (append_xnn_of_family hf)
  case h_16 hf => exact (encode_of_decodeFamilyF h).trans (append_xnn_of_family hf)
  case h_17 => cases h

end Sys2Proof
end

section
/-! PROOF. What an instruction, a cycle and an event do to the run state (10_state.md R32, R33, R42), and with it the
invariant of every state after a reset (R36): a cycle leaves the core running, makes it wait at its `FX0A`, or faults it
where a fault's condition holds (60_exceptions.md R270, R271). -/

namespace Sys2Proof.Machine

/-! ### How a checked instruction ends -/

section checks

variable {s t : State}

/-- As `State.orRaise_next_induction`, with the failed check known where the instruction faults. -/
theorem State.orRaise_next_elim {α : Type} {r : Option α} {c : Cause} {w : Word} {f : α → State} (P : State → Prop)
    (h : s.orRaise r c w (fun a => .next (f a)) = .next t) (hfault : r = none → P (s.faultedAt c w))
    (hdone : ∀ a, r = some a → P (f a)) : P t := by
  obtain ⟨a, ha, hnext⟩ | ⟨hr, rfl⟩ := (s.orRaise_eq_next t r c w _).1 h
  · exact Result.next_induction P hnext (hdone a ha)
  · exact hfault hr

/-- A checked instruction always answers a next state. -/
theorem State.exists_orRaise_eq_next {α : Type} (s : State) (r : Option α) (c : Cause) (w : Word) (f : α → State) :
    ∃ t, s.orRaise r c w (fun a => .next (f a)) = .next t := by
  cases r with
  | none => exact ⟨_, rfl⟩
  | some a => exact ⟨_, rfl⟩

theorem State.push_run {w : Word} (h : s.push w = some t) : t.run = s.run := by
  obtain ⟨_, rfl⟩ := (s.push_eq_some t w).1 h
  rfl

theorem State.pop_run {w : Word} (h : s.pop = some (w, t)) : t.run = s.run := by
  obtain ⟨_, -, rfl⟩ := (s.pop_eq_some t w).1 h
  rfl

theorem State.storeBytes_run {a : Nat} {bs : List Byte} (h : s.storeBytes a bs = some t) : t.run = s.run := by
  obtain ⟨-, rfl⟩ := (s.storeBytes_eq_some t a bs).1 h
  rfl

/-- The range check fails on a block of one byte or more whose last byte lies above 0xFFF (R66). -/
theorem inMemory_eq_false_iff (a n : Nat) : inMemory a n = false ↔ n ≥ 1 ∧ a + n - 1 > 0xFFF := by
  rw [← Bool.not_eq_true, inMemory_iff]
  omega

end checks

/-! ### The run state after an instruction and after a cycle -/

section cycle

variable {s t : State} {i : Instr}

/-- What a cycle from `s` may leave of the run state in `t`: it is as it was, or the core waits at its `FX0A`, or it is
faulted where the fault's condition holds, with PC and the word recorded and nothing else changed. -/
def RunAfterCycle (s t : State) : Prop :=
  t.run = s.run ∨
  (∃ x, fetchable s.pc = true ∧ decode s.fetch = .instr (.ldVxK x) ∧ t = s.setRun (.waitingKey x)) ∨
  ∃ c, FaultCondition c s ∧ t = s.faultedAt c (recordedWord c s)

theorem RunAfterCycle.of_faultedAt {c : Cause} {w : Word} (hc : FaultCondition c s) (hw : w = recordedWord c s) :
    RunAfterCycle s (s.faultedAt c w) :=
  .inr (.inr ⟨c, hc, hw ▸ rfl⟩)

theorem RunAfterCycle.of_keySkip {x : Nibble} {level : Bool} {w : Word} (h : s.keySkip x level w = .next t)
    (hc : (s.reg x).toNat > 0xF → FaultCondition .invariantKey s) (hw : w = s.fetch) : RunAfterCycle s t := by
  obtain ⟨hkey, rfl⟩ | ⟨-, rfl⟩ := (s.keySkip_eq_next t x level w).1 h
  · exact .of_faultedAt (hc hkey) hw
  · exact .inl rfl

/-- What the instruction at PC does to the run state. Its own check is the condition of its fault. -/
theorem exec_runAfterCycle (hf : fetchable s.pc = true) (hd : decode s.fetch = .instr i) (h : exec i s = .next t) :
    RunAfterCycle s t := by
  cases i with
  | ret =>
    exact State.orRaise_next_elim (RunAfterCycle s) h
      (fun hr => .of_faultedAt ⟨hf, s.pop_eq_none.1 hr, hd⟩ (encode_of_decode hd rfl))
      fun _ hpop => .inl (State.pop_run hpop :)
  | call nnn =>
    exact State.orRaise_next_elim (RunAfterCycle s) h
      (fun hr => .of_faultedAt ⟨hf, (s.push_eq_none _).1 hr, nnn, hd⟩ (encode_of_decode hd rfl))
      fun _ hpush => .inl (State.push_run hpush :)
  | ldB x =>
    refine State.orRaise_next_elim (RunAfterCycle s) h
      (fun hr => .of_faultedAt ⟨hf, .inl ⟨x, hd, ?_⟩⟩ (encode_of_decode hd rfl))
      fun _ hstore => .inl (State.storeBytes_run hstore :)
    exact ((inMemory_eq_false_iff _ _).1 ((s.storeBytes_eq_none _ _).1 hr)).2
  | storeRegs x =>
    refine State.orRaise_next_elim (RunAfterCycle s) h
      (fun hr => .of_faultedAt ⟨hf, .inr (.inl ⟨x, hd, ?_⟩)⟩ (encode_of_decode hd rfl))
      fun _ hstore => .inl (State.storeBytes_run hstore :)
    have hin := (s.storeBytes_eq_none _ _).1 hr
    rw [State.length_regsUpTo] at hin
    exact ((inMemory_eq_false_iff _ _).1 hin).2
  | loadRegs x =>
    refine State.orRaise_next_elim (RunAfterCycle s) h
      (fun hr => .of_faultedAt ⟨hf, .inr (.inr (.inl ⟨x, hd, ?_⟩))⟩ (encode_of_decode hd rfl))
      fun _ _ => .inl rfl
    exact ((inMemory_eq_false_iff _ _).1 ((s.loadBytes_eq_none _ _).1 hr)).2
  | drw x y n =>
    refine State.orRaise_next_elim (RunAfterCycle s) h
      (fun hr => .of_faultedAt ⟨hf, .inr (.inr (.inr ⟨x, y, n, hd, ?_⟩))⟩ (encode_of_decode hd rfl))
      fun _ _ => .inl rfl
    exact (inMemory_eq_false_iff _ _).1 ((s.loadBytes_eq_none _ _).1 hr)
  | skp x => exact .of_keySkip h (fun hkey => ⟨hf, x, .inl hd, hkey⟩) (encode_of_decode hd rfl)
  | sknp x => exact .of_keySkip h (fun hkey => ⟨hf, x, .inr hd, hkey⟩) (encode_of_decode hd rfl)
  | ldVxK x => exact Result.next_induction (RunAfterCycle s) h (.inr (.inl ⟨x, hf, hd, rfl⟩))
  | cls | jp | jpV0 | seImm | sneImm | seReg | sneReg
  | ldImm | addImm | rnd | ldI | addI | ldF | ldVxDt | ldDtVx | ldStVx
  | ldReg | orReg | andReg | xorReg | addReg | subReg | shr | subn | shl =>
    exact Result.next_induction (RunAfterCycle s) h (.inl rfl)

/-- A cycle executes the instruction at PC or takes one of the two faults that come before any (R85, R96). -/
theorem fetchExecute_cases (h : fetchExecute s = .next t) :
    (∃ i, fetchable s.pc = true ∧ decode s.fetch = .instr i ∧ exec i s = .next t) ∨
      ∃ c, FaultCondition c s ∧ t = s.faultedAt c (recordedWord c s) := by
  unfold fetchExecute at h
  split at h
  · next hf =>
    split at h
    · next i hd => exact .inl ⟨i, hf, hd, h⟩
    · next hd => exact .inr ⟨.illegalOpcode, ⟨hf, hd⟩, (Host.Outcome.next.inj h).symm⟩
  · next hf => exact .inr ⟨.invariantPc, Bool.eq_false_of_not_eq_true hf, (Host.Outcome.next.inj h).symm⟩

theorem fetchExecute_runAfterCycle (h : fetchExecute s = .next t) : RunAfterCycle s t := by
  obtain ⟨i, hf, hd, hexec⟩ | hfault := fetchExecute_cases h
  · exact exec_runAfterCycle hf hd hexec
  · exact .inr (.inr hfault)

/-- R42: the event `step` does nothing in the run states other than `Running`. -/
theorem stepEvent_of_not_running (h : s.run ≠ .running) : stepEvent s = .next s := by
  unfold stepEvent
  split
  · next hr => exact absurd hr h
  all_goals rfl

theorem stepEvent_of_running (h : s.run = .running) : stepEvent s = fetchExecute s := by
  unfold stepEvent
  rw [h]

end cycle

/-! ### The parts of the invariant -/

section invariant

variable {s t : State}

/-- R36: a store keeps the canonical form, since it is checked before any byte is written. -/
theorem State.storeBytes_wf {a : Nat} {bs : List Byte} (h : s.storeBytes a bs = some t) (hwf : s.mem.wf = true) :
    t.mem.wf = true := by
  obtain ⟨hin, rfl⟩ := (s.storeBytes_eq_some t a bs).1 h
  obtain hnil | hle := (inMemory_iff a bs.length).1 hin
  · rw [List.eq_nil_of_length_eq_zero hnil]
    exact hwf
  · exact Memory.wf_writeBytes hle hwf

theorem State.push_mem {w : Word} (h : s.push w = some t) : t.mem = s.mem := by
  obtain ⟨_, rfl⟩ := (s.push_eq_some t w).1 h
  rfl

theorem State.pop_mem {w : Word} (h : s.pop = some (w, t)) : t.mem = s.mem := by
  obtain ⟨_, -, rfl⟩ := (s.pop_eq_some t w).1 h
  rfl

theorem State.keySkip_mem {x : Nibble} {level : Bool} {w : Word} (h : s.keySkip x level w = .next t) :
    t.mem = s.mem := by
  obtain ⟨-, rfl⟩ | ⟨-, rfl⟩ := (s.keySkip_eq_next t x level w).1 h <;> rfl

/-- Every instruction keeps the canonical form of memory. -/
theorem exec_wf {i : Instr} (h : exec i s = .next t) (hwf : s.mem.wf = true) : t.mem.wf = true := by
  cases i with
  | ldB | storeRegs =>
    exact State.orRaise_next_induction (·.mem.wf = true) h hwf fun _ hstore => (State.storeBytes_wf hstore hwf :)
  | ret => exact State.orRaise_next_induction (·.mem.wf = true) h hwf fun _ hpop => (State.pop_mem hpop).symm ▸ hwf
  | call => exact State.orRaise_next_induction (·.mem.wf = true) h hwf fun _ hpush => (State.push_mem hpush).symm ▸ hwf
  | drw | loadRegs => exact State.orRaise_next_induction (·.mem.wf = true) h hwf fun _ _ => hwf
  | skp | sknp => exact (State.keySkip_mem h).symm ▸ hwf
  | cls | jp | jpV0 | seImm | sneImm | seReg | sneReg
  | ldImm | addImm | rnd | ldI | addI | ldF | ldVxDt | ldDtVx | ldStVx | ldVxK
  | ldReg | orReg | andReg | xorReg | addReg | subReg | shr | subn | shl =>
    exact Result.next_induction (·.mem.wf = true) h hwf

/-- Every instruction keeps I at most 0xFFF: it leaves I or is one of its writers. -/
theorem exec_i_le {i : Instr} (h : exec i s = .next t) (hle : s.i.toNat ≤ 0xFFF) : t.i.toNat ≤ 0xFFF := by
  by_cases hi : .i ∈ writtenParts i
  · exact exec_i_le_of_mem_writtenParts h hi
  · have hkept : t.i = s.i := exec_changesOnly h .i hi
    rwa [hkept]

/-- What a cycle leaves of a running core is coherent. -/
theorem RunAfterCycle.runCoherent (h : RunAfterCycle s t) (hr : s.run = .running) : t.RunCoherent := by
  obtain hkept | ⟨x, hf, hd, rfl⟩ | ⟨c, hc, rfl⟩ := h
  · simp [State.RunCoherent, hkept, hr]
  · exact ⟨hf, hd⟩
  · obtain ⟨hcond, hword⟩ := FaultCondition_congr (s := s) (t := s.faultedAt c (recordedWord c s)) rfl rfl rfl rfl rfl c
    exact ⟨hcond.2 hc, rfl, hword.symm⟩

/-- What the invariant depends on: two states that agree on it meet it together. -/
theorem State.Inv.congr (h : s.Inv) (hrun : t.run = s.run) (hpc : t.pc = s.pc) (hm : t.mem = s.mem) (hsp : t.sp = s.sp)
    (hi : t.i = s.i) (hv : t.v = s.v) : t.Inv := by
  intro hreset
  obtain ⟨hwf, hle, hco⟩ := h (hrun ▸ hreset)
  refine ⟨hm ▸ hwf, hi ▸ hle, ?_⟩
  have hfetch : t.fetch = s.fetch := by simp [State.fetch, hpc, hm]
  unfold State.RunCoherent at hco ⊢
  rw [hrun]
  cases hq : s.run with
  | unreset | running => trivial
  | waitingKey x => simpa [hq, hpc, hfetch] using hco
  | faulted c fpc fop =>
    obtain ⟨hcond, hword⟩ := FaultCondition_congr hpc hm hsp hi hv c
    simpa [hq, hcond, hword, hpc] using hco

end invariant

/-! ### The invariant under each event -/

section events

variable {s t : State}

theorem fetchExecute_inv (hs : s.Inv) (hr : s.run = .running) (h : fetchExecute s = .next t) : t.Inv := by
  intro _
  obtain ⟨hwf, hle, -⟩ := hs (by simp [hr])
  have hco : t.RunCoherent := (fetchExecute_runAfterCycle h).runCoherent hr
  obtain ⟨i, -, -, hexec⟩ | ⟨c, -, rfl⟩ := fetchExecute_cases h
  · exact ⟨exec_wf hexec hwf, exec_i_le hexec hle, hco⟩
  · exact ⟨hwf, hle, hco⟩

theorem stepEvent_inv (hs : s.Inv) (h : stepEvent s = .next t) : t.Inv := by
  by_cases hr : s.run = .running
  · exact fetchExecute_inv hs hr (stepEvent_of_running hr ▸ h)
  · exact Result.next_induction State.Inv ((stepEvent_of_not_running hr).symm.trans h) hs

theorem tick_inv (hs : s.Inv) : (tick s).Inv := by
  unfold tick
  split
  · exact hs
  all_goals exact hs.congr rfl rfl rfl rfl rfl rfl

/-- A press that ends the wait leaves a running core, of which the invariant asks nothing more (R233). -/
theorem keyPress_inv (hs : s.Inv) (k : Nibble) : (keyPress k s).Inv := by
  unfold keyPress
  split
  · next hr =>
    obtain ⟨hwf, hle, -⟩ := hs (by simp [hr])
    exact fun _ => ⟨hwf, hle, trivial⟩
  all_goals exact hs

/-- An accepted reset establishes the invariant, whatever the state before it (R300). -/
theorem resetReq_inv_of_fits (s : State) {rom : List Byte} (hfits : rom.length ≤ Config.romMax) : (resetReq rom s).Inv := by
  intro _
  rw [resetReq, if_pos hfits]
  exact ⟨wf_romImage s.font hfits, show (0 : Word).toNat ≤ 0xFFF by decide, trivial⟩

theorem resetReq_inv (hs : s.Inv) (rom : List Byte) : (resetReq rom s).Inv := by
  by_cases hfits : rom.length ≤ Config.romMax
  · exact resetReq_inv_of_fits s hfits
  · rw [resetReq, if_neg hfits]
    exact hs.congr rfl rfl rfl rfl rfl rfl

theorem deliver_inv {e : Event} (hs : s.Inv) (h : deliver e s = .next t) : t.Inv := by
  cases e with
  | step => exact stepEvent_inv hs h
  | tick => exact Result.next_induction State.Inv h (tick_inv hs)
  | keyPress k => exact Result.next_induction State.Inv h (keyPress_inv hs k)
  | resetReq rom => exact Result.next_induction State.Inv h (resetReq_inv hs rom)

end events

/-- Settles O56: taking the event off the list touches nothing that the invariant speaks of, and each event keeps it. -/
theorem everyStepKeepsTheInvariant : Obligations.EveryStepKeepsTheInvariant := by
  intro s t hs h
  have htaken : s.takeEvent.Inv := hs.congr rfl rfl rfl rfl rfl rfl
  exact deliver_inv htaken (step_eq s ▸ h)

/-- Settles O57: the state after reset is what an accepted reset with the empty ROM leaves. -/
theorem resetMeetsTheInvariant : Obligations.ResetMeetsTheInvariant :=
  resetReq_inv_of_fits State.reset (rom := []) (Nat.zero_le _)

/-- Settles O9: what is left of such a step is that the event is off the list. -/
theorem stepChangesNothingUnlessRunning : Obligations.StepChangesNothingUnlessRunning := by
  intro s hr hn
  rw [step_eq, hn]
  exact stepEvent_of_not_running hr

/-! ### Every step answers a next state -/

/-- Every instruction answers a next state: it completes, or its fault is one. -/
theorem exists_exec_eq_next (i : Instr) (s : State) : ∃ t, exec i s = .next t := by
  cases i with
  | ret | call | ldB | storeRegs | drw | loadRegs => exact s.exists_orRaise_eq_next _ _ _ _
  | skp x | sknp x =>
    by_cases hkey : (s.reg x).toNat > 0xF
    · exact ⟨_, (s.keySkip_eq_next _ x _ _).2 (.inl ⟨hkey, rfl⟩)⟩
    · exact ⟨_, (s.keySkip_eq_next _ x _ _).2 (.inr ⟨hkey, rfl⟩)⟩
  | cls | jp | jpV0 | seImm | sneImm | seReg | sneReg
  | ldImm | addImm | rnd | ldI | addI | ldF | ldVxDt | ldDtVx | ldStVx | ldVxK
  | ldReg | orReg | andReg | xorReg | addReg | subReg | shr | subn | shl => exact ⟨_, rfl⟩

theorem exists_fetchExecute_eq_next (s : State) : ∃ t, fetchExecute s = .next t := by
  unfold fetchExecute
  split
  · split
    · next i _ => exact exists_exec_eq_next i s
    · exact ⟨_, rfl⟩
  · exact ⟨_, rfl⟩

/-- Settles O10: three of the events are functions of the state, and the fourth is a cycle or does nothing. -/
theorem everyStepAnswersANextState : Obligations.EveryStepAnswersANextState := by
  intro s
  rw [step_eq]
  cases s.nextEvent with
  | step =>
    by_cases hr : s.takeEvent.run = .running
    · obtain ⟨t, ht⟩ := exists_fetchExecute_eq_next s.takeEvent
      exact ⟨t, (stepEvent_of_running hr).trans ht⟩
    · exact ⟨_, stepEvent_of_not_running hr⟩
  | tick | keyPress | resetReq => exact ⟨_, rfl⟩

end Sys2Proof.Machine
end

section
/-! PROOF. The sound timer: no instruction reads it (10_state.md R29), and `sound_on` follows it, so that what writes ST
is all that can change `sound_on` (R49, 46_timers.md R256). -/

namespace Sys2Proof.Machine

/-! ### Replacing ST commutes with every instruction that does not write it -/

section replace

variable {s t : State} {b : Byte}

/-- Two checked instructions whose checks agree up to `φ`, and which fault and complete in the same states up to `g`,
answer the same up to `g`. -/
theorem State.orRaise_map_next {α β : Type} {s' : State} {r : Option α} {r' : Option β} {c : Cause} {w : Word}
    {f : α → State} {f' : β → State} (φ : α → β) (g : State → State)
    (h : s.orRaise r c w (fun a => .next (f a)) = .next t) (hr : r' = r.map φ)
    (hfault : s'.faultedAt c w = g (s.faultedAt c w)) (hdone : ∀ a, f' (φ a) = g (f a)) :
    s'.orRaise r' c w (fun a => .next (f' a)) = .next (g t) := by
  rw [State.orRaise_eq_next] at h ⊢
  obtain ⟨a, rfl, ha⟩ | ⟨rfl, rfl⟩ := h
  · exact .inl ⟨φ a, hr, Host.Outcome.next.inj ha ▸ congrArg _ (hdone a)⟩
  · exact .inr ⟨hr, hfault.symm⟩

theorem State.pop_setSt (s : State) (b : Byte) : (s.setSt b).pop = s.pop.map (Prod.map id (·.setSt b)) := by
  unfold State.pop
  by_cases h : s.sp.val ≠ 0
  · rw [dif_pos h, dif_pos (show (s.setSt b).sp.val ≠ 0 from h)]
    rfl
  · rw [dif_neg h, dif_neg (show ¬ (s.setSt b).sp.val ≠ 0 from h)]
    rfl

theorem State.push_setSt (s : State) (b : Byte) (w : Word) : (s.setSt b).push w = (s.push w).map (·.setSt b) := by
  unfold State.push
  by_cases h : s.sp.val < 16
  · rw [dif_pos h, dif_pos (show (s.setSt b).sp.val < 16 from h)]
    rfl
  · rw [dif_neg h, dif_neg (show ¬ (s.setSt b).sp.val < 16 from h)]
    rfl

theorem State.storeBytes_setSt (s : State) (b : Byte) (a : Nat) (bs : List Byte) :
    (s.setSt b).storeBytes a bs = (s.storeBytes a bs).map (·.setSt b) := by
  unfold State.storeBytes
  split
  · rfl
  · rfl

theorem State.loadBytes_setSt (s : State) (b : Byte) (a n : Nat) :
    (s.setSt b).loadBytes a n = (s.loadBytes a n).map id := by
  rw [Option.map_id]
  rfl

theorem State.keySkip_setSt {x : Nibble} {level : Bool} {w : Word} (h : s.keySkip x level w = .next t) :
    (s.setSt b).keySkip x level w = .next (t.setSt b) := by
  obtain ⟨hkey, rfl⟩ | ⟨hkey, rfl⟩ := (s.keySkip_eq_next t x level w).1 h
  · exact ((s.setSt b).keySkip_eq_next _ x level w).2 (.inl ⟨hkey, rfl⟩)
  · exact ((s.setSt b).keySkip_eq_next _ x level w).2 (.inr ⟨hkey, rfl⟩)

/-- An instruction other than `FX18`, executed with another ST, answers the same next state with that ST. -/
theorem exec_setSt {i : Instr} (hi : ∀ x, i ≠ .ldStVx x) (h : exec i s = .next t) (b : Byte) :
    exec i (s.setSt b) = .next (t.setSt b) := by
  cases i with
  | ldStVx x => exact absurd rfl (hi x)
  | ret => exact State.orRaise_map_next _ (·.setSt b) h (s.pop_setSt b) rfl fun _ => rfl
  | call => exact State.orRaise_map_next _ (·.setSt b) h (s.push_setSt b _) rfl fun _ => rfl
  | ldB | storeRegs => exact State.orRaise_map_next _ (·.setSt b) h (s.storeBytes_setSt b _ _) rfl fun _ => rfl
  | drw | loadRegs => exact State.orRaise_map_next _ (·.setSt b) h (s.loadBytes_setSt b _ _) rfl fun _ => rfl
  | skp | sknp => exact State.keySkip_setSt h
  | cls | jp | jpV0 | seImm | sneImm | seReg | sneReg
  | ldImm | addImm | rnd | ldI | addI | ldF | ldVxDt | ldDtVx | ldVxK
  | ldReg | orReg | andReg | xorReg | addReg | subReg | shr | subn | shl =>
    exact Result.next_induction (fun u => exec _ (s.setSt b) = .next (u.setSt b)) h rfl

end replace

/-- Settles O53: `FX18` overwrites the replaced ST; every other instruction carries it along. -/
theorem soundTimerIsReadByNoInstruction : Obligations.SoundTimerIsReadByNoInstruction := by
  intro i s t b h
  cases i with
  | ldStVx x => exact Result.next_induction (fun u => exec (.ldStVx x) (s.setSt b) = .next u) h rfl
  | _ => exact exec_setSt (by simp) h b

/-! ### The events after which `sound_on` differs -/

section sound

variable {s t : State}

/-- The output `sound_on` follows ST: a sound transition is a change of ST (R256). -/
theorem st_ne_of_soundTransition (h : soundTransition s t = true) : t.st ≠ s.st := by
  intro hst
  simp [soundTransition, State.soundOn, hst] at h

@[simp] theorem keyPress_st (s : State) (k : Nibble) : (keyPress k s).st = s.st := by
  unfold keyPress
  split <;> rfl

/-- A refused reset changes the answer alone (R301). -/
theorem resetReq_st_of_oversized (s : State) {rom : List Byte} (h : ¬ rom.length ≤ Config.romMax) :
    (resetReq rom s).st = s.st := by
  rw [resetReq, if_neg h]

/-- A `step` that changes ST is a cycle of a running core that executes `FX18`. -/
theorem stepEvent_of_st_ne (h : stepEvent s = .next t) (hst : t.st ≠ s.st) :
    s.run = .running ∧ ∃ x, decode s.fetch = .instr (.ldStVx x) := by
  by_cases hr : s.run = .running
  · refine ⟨hr, ?_⟩
    obtain ⟨i, -, hd, hexec⟩ | ⟨c, -, rfl⟩ := fetchExecute_cases (stepEvent_of_running hr ▸ h)
    · obtain ⟨x, rfl⟩ := (st_mem_writtenParts i).1 ((exec_changesOnly hexec).mem_of_not_kept hst)
      exact ⟨x, hd⟩
    · exact absurd rfl hst
  · have hsame : s = t := Host.Outcome.next.inj ((stepEvent_of_not_running hr).symm.trans h)
    exact absurd (hsame ▸ rfl) hst

end sound

/-- Settles O55: of the four events, a key press and a refused reset keep ST, and a step changes it only by `FX18`. -/
theorem soundTransitionsHaveThreeSources : Obligations.SoundTransitionsHaveThreeSources := by
  intro s t h hsound
  have hst : t.st ≠ s.takeEvent.st := st_ne_of_soundTransition hsound
  rw [step_eq] at h
  cases hn : s.nextEvent with
  | tick => exact .inl rfl
  | step =>
    rw [hn] at h
    obtain ⟨hr, hx⟩ := stepEvent_of_st_ne h hst
    exact .inr (.inr ⟨rfl, hr, hx⟩)
  | keyPress k =>
    rw [hn] at h
    exact absurd (Result.next_induction (·.st = s.takeEvent.st) h (keyPress_st _ k)) hst
  | resetReq rom =>
    rw [hn] at h
    refine .inr (.inl ⟨rom, rfl, not_not.1 fun hbig => hst ?_⟩)
    exact Result.next_induction (·.st = s.takeEvent.st) h (resetReq_st_of_oversized _ hbig)

end Sys2Proof.Machine
end

section
/-! PROOF. The stores to memory (20_memory.md R62, R63, R66, R71): a checked store changes bytes of its own block alone,
only `FX33` and `FX55` store, and what `FX55` stores is what a fetch there reads. -/

namespace Sys2Proof.Machine

/-! ### Which bytes a store changes -/

section stores

variable {s t : State} {a x : Nat} {bs : List Byte}

/-- A byte that a checked store changes lies in the block stored to, and the block in the address space. -/
theorem State.storeBytes_read_ne (h : s.storeBytes a bs = some t) (hx : t.mem.read x ≠ s.mem.read x) :
    a ≤ x ∧ x < a + bs.length ∧ x ≤ 0xFFF := by
  obtain ⟨hin, rfl⟩ := (s.storeBytes_eq_some t a bs).1 h
  have hblock : ¬ (x < a ∨ a + bs.length ≤ x) := fun hout => hx (s.mem.read_writeBytes_outside bs hout)
  rw [inMemory_iff] at hin
  omega

/-- The same of an instruction that stores and advances: its fault changes no byte. -/
theorem State.storeOrRaise_read_ne {c : Cause} {w : Word}
    (h : s.orRaise (s.storeBytes a bs) c w (fun u => .next u.advance) = .next t)
    (hx : t.mem.read x ≠ s.mem.read x) : a ≤ x ∧ x < a + bs.length ∧ x ≤ 0xFFF :=
  State.orRaise_next_induction (fun u => u.mem.read x ≠ s.mem.read x → a ≤ x ∧ x < a + bs.length ∧ x ≤ 0xFFF) h
    (fun hfault => absurd rfl hfault) (fun _ => State.storeBytes_read_ne) hx

end stores

theorem mem_mem_writtenParts (i : Instr) : .mem ∈ writtenParts i ↔ (∃ x, i = .ldB x) ∨ ∃ x, i = .storeRegs x := by
  rw [mem_writtenParts_of_not_reg i (by simp)]
  cases i <;> simp [otherWrittenParts]

/-- Settles O50: memory is a written part of the two storing instructions alone, and their blocks are 3 and x + 1 bytes
long. -/
theorem memoryChangesOnlyByStores : Obligations.MemoryChangesOnlyByStores := by
  intro i s t a h ha
  have hmem : .mem ∈ writtenParts i := (exec_changesOnly h).mem_of_not_kept fun hkept => ha (hkept a)
  obtain ⟨x, rfl⟩ | ⟨x, rfl⟩ := (mem_mem_writtenParts i).1 hmem
  · obtain ⟨hlow, hhigh, hspace⟩ := State.storeOrRaise_read_ne h ha
    rw [length_bcdDigits] at hhigh
    exact ⟨hlow, hspace, .inl ⟨x, rfl, by omega⟩⟩
  · obtain ⟨hlow, hhigh, hspace⟩ := State.storeOrRaise_read_ne h ha
    rw [State.length_regsUpTo] at hhigh
    exact ⟨hlow, hspace, .inr ⟨x, rfl, by omega⟩⟩

/-! ### What a fetch reads after `FX55` -/

section registers

variable {s : State} {x : Nibble} (hfits : s.iAddr + x.toNat ≤ 0xFFF)

include hfits

/-- `FX55` completes where I..I+x lies in the address space (R66, 43_memory_font.md R182). -/
theorem exec_storeRegs_of_fits :
    exec (.storeRegs x) s = .next { s with mem := s.mem.writeBytes s.iAddr (s.regsUpTo x) }.advance := by
  have hin : inMemory s.iAddr (s.regsUpTo x).length = true := by
    rw [inMemory_iff, State.length_regsUpTo]
    omega
  exact (s.orRaise_eq_next _ _ _ _ _).2 (.inl ⟨_, (s.storeBytes_eq_some _ _ _).2 ⟨hin, rfl⟩, rfl⟩)

/-- After the registers V0..Vx are stored at I, the byte at I + r is V[r]. -/
theorem read_writeBytes_regsUpTo (hwf : s.mem.wf = true) {r : Nibble} (hr : r.toNat ≤ x.toNat) :
    (s.mem.writeBytes s.iAddr (s.regsUpTo x)).read (s.iAddr + r.toNat) = s.reg r := by
  have hlen : s.iAddr + (s.regsUpTo x).length ≤ Config.memSize := by
    rw [State.length_regsUpTo, Config.memSize]
    omega
  have hlt : r.toNat < (s.regsUpTo x).length := by
    rw [State.length_regsUpTo]
    omega
  rw [Memory.read_writeBytes hlen hwf, if_pos (Nat.le_add_right ..), Nat.add_sub_cancel_left,
    List.getD_eq_getElem _ _ hlt, State.getElem_regsUpTo]

end registers

/-- Settles O32: the fetch reads two neighbouring bytes of the block, and each is the register stored there. -/
theorem storedBytesAreFetched : Obligations.StoredBytesAreFetched := by
  intro x r q s t pc hwf hfits h hq hqx hpc
  have hsecond : pc.toNat + 1 = s.iAddr + q.toNat := by omega
  have hdone := (exec_storeRegs_of_fits hfits).symm.trans h
  refine Result.next_induction
    (fun u => (u.setPc pc).fetch.toNat = (s.reg r).toNat * 256 + (s.reg q).toNat) hdone ?_
  rw [State.fetch_toNat, State.setPc_pc, State.setPc_mem, State.advance_mem, hsecond, hpc,
    read_writeBytes_regsUpTo hfits hwf (by omega), read_writeBytes_regsUpTo hfits hwf hqx]

end Sys2Proof.Machine
end

section
/-! PROOF. No instruction but `DXYN` reads the framebuffer (20_memory.md R75): replacing it commutes with every other
instruction that does not overwrite it. -/

namespace Sys2Proof.Machine

section replace

variable {s t : State}

theorem State.pop_setFb (s : State) (f : Framebuffer) : (s.setFb f).pop = s.pop.map (Prod.map id (·.setFb f)) := by
  unfold State.pop
  rw [apply_dite (Option.map _)]
  rfl

theorem State.push_setFb (s : State) (f : Framebuffer) (w : Word) :
    (s.setFb f).push w = (s.push w).map (·.setFb f) := by
  unfold State.push
  rw [apply_dite (Option.map _)]
  rfl

theorem State.storeBytes_setFb (s : State) (f : Framebuffer) (a : Nat) (bs : List Byte) :
    (s.setFb f).storeBytes a bs = (s.storeBytes a bs).map (·.setFb f) := by
  unfold State.storeBytes
  rw [apply_ite (Option.map _)]
  rfl

theorem State.keySkip_setFb {x : Nibble} {level : Bool} {w : Word} (h : s.keySkip x level w = .next t)
    (f : Framebuffer) : (s.setFb f).keySkip x level w = .next (t.setFb f) := by
  rw [State.keySkip_eq_next] at h ⊢
  exact h.imp (fun ⟨hkey, ht⟩ => ⟨hkey, ht ▸ rfl⟩) (fun ⟨hkey, ht⟩ => ⟨hkey, ht ▸ rfl⟩)

/-- An instruction that does not write the framebuffer, executed with another one, answers the same next state with
that one. -/
theorem exec_setFb {i : Instr} (hi : .fb ∉ writtenParts i) (h : exec i s = .next t) (f : Framebuffer) :
    exec i (s.setFb f) = .next (t.setFb f) := by
  rw [fb_mem_writtenParts] at hi
  cases i with
  | cls | drw => simp at hi
  | ret => exact State.orRaise_map_next _ (·.setFb f) h (s.pop_setFb f) rfl fun _ => rfl
  | call => exact State.orRaise_map_next _ (·.setFb f) h (s.push_setFb f _) rfl fun _ => rfl
  | ldB | storeRegs => exact State.orRaise_map_next _ (·.setFb f) h (s.storeBytes_setFb f _ _) rfl fun _ => rfl
  | loadRegs => exact State.orRaise_map_next id (·.setFb f) h Option.map_id'.symm rfl fun _ => rfl
  | skp | sknp => exact State.keySkip_setFb h f
  | jp | jpV0 | seImm | sneImm | seReg | sneReg
  | ldImm | addImm | rnd | ldI | addI | ldF | ldVxDt | ldDtVx | ldStVx | ldVxK
  | ldReg | orReg | andReg | xorReg | addReg | subReg | shr | subn | shl =>
    exact Result.next_induction (fun u => exec _ (s.setFb f) = .next (u.setFb f)) h rfl

end replace

/-- Settles O54: `00E0` overwrites the replaced framebuffer; every other instruction carries it along. -/
theorem framebufferIsReadOnlyByDraw : Obligations.FramebufferIsReadOnlyByDraw := by
  intro i s t f hdrw h
  cases i with
  | cls => exact Result.next_induction (fun u => exec .cls (s.setFb f) = .next u) h rfl
  | drw x y n => exact absurd rfl (hdrw x y n)
  | _ => exact exec_setFb (by simp [fb_mem_writtenParts]) h f

end Sys2Proof.Machine
end

section
/-! PROOF. Decoding and encoding are inverse, but for the ignored field (30_encoding.md R83, R94, R95): the decoder
gives back every instruction from its word, and a legal word is its instruction's own word with the y field of SHR and
SHL cleared. -/

namespace Sys2Proof

/-! ### The instruction of an encoded word -/

/-- A word written with its low byte as one field, and with that byte as two nibbles. -/
theorem append_byte_of_nibbles (f x y n : Nibble) : (f ++ x ++ (y ++ n) : Word) = (f ++ x ++ y ++ n : Word) := by
  apply BitVec.eq_of_toNat_eq
  have hbyte : (y ++ n : Byte).toNat = y.toNat * 16 + n.toNat := by
    rw [BitVec.toNat_append, ← Nat.shiftLeft_add_eq_or_of_lt n.isLt, Nat.shiftLeft_eq]
  rw [word_xnn_toNat, word_xyn_toNat, hbyte, Nat.add_assoc _ (y.toNat * 16)]

/-- The word of SHR, with its unused y field as a nibble of its own (R95). -/
theorem encode_shr (x : Nibble) : encode (.shr x) = (0x8#4 ++ x ++ 0x0#4 ++ 0x6#4 : Word) :=
  append_byte_of_nibbles 0x8#4 x 0x0#4 0x6#4

/-- The word of SHL, likewise. -/
theorem encode_shl (x : Nibble) : encode (.shl x) = (0x8#4 ++ x ++ 0x0#4 ++ 0xE#4 : Word) :=
  append_byte_of_nibbles 0x8#4 x 0x0#4 0xE#4

theorem decode_family8_word (x y n : Nibble) : decode (0x8#4 ++ x ++ y ++ n) = decodeFamily8 n x y := by
  simp [decode]

theorem decode_familyE_word (x : Nibble) (nn : Byte) : decode (0xE#4 ++ x ++ nn) = decodeFamilyE nn x := by
  simp [decode]

theorem decode_familyF_word (x : Nibble) (nn : Byte) : decode (0xF#4 ++ x ++ nn) = decodeFamilyF nn x := by
  simp [decode]

/-- Settles O1: the fields of a word written out in one of the formats of R83 are the operands it was written from, and
its family and selector are those of the instruction. -/
theorem decodeInvertsEncode : Obligations.DecodeInvertsEncode := by
  intro i
  cases i with
  | cls | ret => rfl
  | jp | call | ldI | jpV0 | seImm | sneImm | ldImm | addImm | rnd | seReg | sneReg | drw => simp [encode, decode]
  | ldReg x y | orReg x y | andReg x y | xorReg x y | addReg x y | subReg x y | subn x y =>
    exact decode_family8_word x y _
  | shr x => exact encode_shr x ▸ decode_family8_word x _ _
  | shl x => exact encode_shl x ▸ decode_family8_word x _ _
  | skp x | sknp x => exact decode_familyE_word x _
  | ldVxDt x | ldVxK x | ldDtVx x | ldStVx x | addI x | ldF x | ldB x | storeRegs x | loadRegs x =>
    exact decode_familyF_word x _

/-- Settles O5: each word is decoded by computation. -/
theorem sampleWordsDecode : Obligations.SampleWordsDecode := by
  unfold Obligations.SampleWordsDecode
  decide

/-! ### The word of a decoded instruction -/

section ignoredField

variable {w : Word} {i : Instr} {x y n : Nibble} {nn : Byte}

theorem ignoresY_of_decodeFamilyE (h : decodeFamilyE nn x = .instr i) : i.ignoresY = false := by
  unfold decodeFamilyE at h
  split at h <;> cases h <;> rfl

theorem ignoresY_of_decodeFamilyF (h : decodeFamilyF nn x = .instr i) : i.ignoresY = false := by
  unfold decodeFamilyF at h
  split at h <;> cases h <;> rfl

/-- SHR and SHL are decoded in family 8 alone (R92). -/
theorem family8_of_ignoresY (h : decode w = .instr i) (hy : i.ignoresY = true) :
    fieldFamily w = 0x8#4 ∧ decodeFamily8 (fieldN w) (fieldX w) (fieldY w) = .instr i := by
  unfold decode at h
  split at h
  case h_9 hf => exact ⟨hf, h⟩
  case h_15 => simp [ignoresY_of_decodeFamilyE h] at hy
  case h_16 => simp [ignoresY_of_decodeFamilyF h] at hy
  case h_1 =>
    split at h
    · cases h; cases hy
    · split at h <;> cases h
      cases hy
  case h_6 | h_10 =>
    split at h <;> cases h
    cases hy
  case h_17 => cases h
  all_goals cases h; cases hy

/-- The word of SHR or SHL has the family, the x and the low nibble it was decoded from, and 0 as its y. -/
theorem encode_of_decodeFamily8_of_ignoresY (h : decodeFamily8 n x y = .instr i) (hy : i.ignoresY = true) :
    encode i = (0x8#4 ++ x ++ 0x0#4 ++ n : Word) := by
  unfold decodeFamily8 at h
  split at h <;> cases h
  case h_7 => exact encode_shr x
  case h_9 => exact encode_shl x
  all_goals cases hy

/-- The encoder clears the field that SHR and SHL ignore, bits 7:4, and gives back every other bit (R95; log 9). -/
theorem encode_of_decode_of_ignoresY (h : decode w = .instr i) (hy : i.ignoresY = true) :
    encode i = w &&& 0xFF0F#16 := by
  obtain ⟨hf, h8⟩ := family8_of_ignoresY h hy
  calc encode i = (0x8#4 ++ fieldX w ++ 0x0#4 ++ fieldN w : Word) := encode_of_decodeFamily8_of_ignoresY h8 hy
    _ = (0x8#4 ++ fieldX w ++ fieldY w ++ fieldN w : Word) &&& (0xF#4 ++ 0xF#4 ++ 0x0#4 ++ 0xF#4 : Word) := by
      have hones (a : Nibble) : a &&& 0xF#4 = a := BitVec.and_allOnes
      rw [Laws.mask_xyn, hones, hones, hones, BitVec.and_zero]
    _ = w &&& 0xFF0F#16 := by rw [append_xyn_of_family hf]; rfl

end ignoredField

/-- Settles O2: SHR and SHL are the two instructions with an ignored field. -/
theorem encodeInvertsDecodeButForIgnoredField : Obligations.EncodeInvertsDecodeButForIgnoredField := by
  intro w i h
  cases i with
  | shr | shl => exact encode_of_decode_of_ignoresY h rfl
  | _ => exact encode_of_decode h rfl

end Sys2Proof
end

section
/-! PROOF. Which words the decoder accepts (30_encoding.md R88-R93, R96), and that it follows the decode table (R94): it
selects the row of a word by the family and the selector bits alone, and the table holds each such selection once. -/

namespace Sys2Proof

/-! ### The row the decoder selects -/

/-- The row of R94 that the decoder selects, where it does not reject the word. -/
def Decoded.selectedRow : Decoded → Option Row
  | .instr i => some (rowOf i)
  | .illegalOpcode => none

@[simp] theorem Decoded.selectedRow_eq_none (d : Decoded) : d.selectedRow = none ↔ d = .illegalOpcode := by
  cases d <;> simp [Decoded.selectedRow]

/-- Family 8 selects the row by the low nibble alone (R92). -/
theorem selectedRow_decodeFamily8 (n x y x' y' : Nibble) :
    (decodeFamily8 n x y).selectedRow = (decodeFamily8 n x' y').selectedRow := by
  unfold decodeFamily8
  split <;> rfl

/-- Family E selects the row by the low byte alone (R93). -/
theorem selectedRow_decodeFamilyE (nn : Byte) (x x' : Nibble) :
    (decodeFamilyE nn x).selectedRow = (decodeFamilyE nn x').selectedRow := by
  unfold decodeFamilyE
  split <;> rfl

/-- Family F selects the row by the low byte alone (R93). -/
theorem selectedRow_decodeFamilyF (nn : Byte) (x x' : Nibble) :
    (decodeFamilyF nn x).selectedRow = (decodeFamilyF nn x').selectedRow := by
  unfold decodeFamilyF
  split <;> rfl

/-! ### The words of the illegal sets -/

/-- In family 8 the selectors without an instruction are 8 to D and F (R92, R96). -/
theorem decodeFamily8_eq_illegal_iff (n x y : Nibble) :
    decodeFamily8 n x y = .illegalOpcode ↔ n.toNat ∈ [8, 9, 0xA, 0xB, 0xC, 0xD, 0xF] := by
  rw [← Decoded.selectedRow_eq_none, selectedRow_decodeFamily8 n x y 0 0]
  revert n
  decide

/-- In family E the selectors without an instruction are all but two (R93, R96). -/
theorem decodeFamilyE_eq_illegal_iff (nn : Byte) (x : Nibble) :
    decodeFamilyE nn x = .illegalOpcode ↔ nn.toNat ∉ [0x9E, 0xA1] := by
  rw [← Decoded.selectedRow_eq_none, selectedRow_decodeFamilyE nn x 0]
  revert nn
  decide

/-- In family F the selectors without an instruction are all but nine (R93, R96). -/
theorem decodeFamilyF_eq_illegal_iff (nn : Byte) (x : Nibble) :
    decodeFamilyF nn x = .illegalOpcode ↔
      nn.toNat ∉ [0x07, 0x0A, 0x15, 0x18, 0x1E, 0x29, 0x33, 0x55, 0x65] := by
  rw [← Decoded.selectedRow_eq_none, selectedRow_decodeFamilyF nn x 0]
  revert nn
  decide

/-- Settles O3: the six sets, each in the branch of its own family; no other family rejects a word. -/
theorem decoderRejectsExactlyTheIllegalSets : Obligations.DecoderRejectsExactlyTheIllegalSets := by
  intro w
  rw [← fieldFamily_toNat, ← fieldN_toNat, ← fieldNn_toNat]
  unfold decode
  split
  case h_1 hf =>
    split
    · next h => subst h; decide
    · next hcls =>
      split
      · next h => subst h; decide
      · next hret => simpa [hf, BitVec.toNat_eq] using (⟨hcls, hret⟩ : w ≠ 0x00E0#16 ∧ w ≠ 0x00EE#16)
  case h_6 hf | h_10 hf =>
    split
    · next h => simp [hf, h]
    · next h => simpa [hf, BitVec.toNat_eq] using h
  case h_9 hf => simpa [hf] using decodeFamily8_eq_illegal_iff (fieldN w) (fieldX w) (fieldY w)
  case h_15 hf => simpa [hf] using decodeFamilyE_eq_illegal_iff (fieldNn w) (fieldX w)
  case h_16 hf => simpa [hf] using decodeFamilyF_eq_illegal_iff (fieldNn w) (fieldX w)
  case h_17 =>
    exfalso
    simp only [imp_false] at *
    bv_omega
  case h_2 hf | h_3 hf | h_4 hf | h_5 hf | h_7 hf | h_8 hf | h_11 hf | h_12 hf | h_13 hf | h_14 hf => simp [hf]

/-- Settles O59: where the decoder reads the family alone, both words come to the same branch. -/
theorem tenFamiliesDecodeByTheFamilyNibbleAlone : Obligations.TenFamiliesDecodeByTheFamilyNibbleAlone := by
  intro w w' hten hsame
  have hf' : fieldFamily w' = fieldFamily w := by
    apply BitVec.eq_of_toNat_eq
    rw [fieldFamily_toNat, fieldFamily_toNat, hsame]
  rw [← fieldFamily_toNat] at hten
  unfold decode
  rw [hf']
  split
  case h_1 hf | h_6 hf | h_9 hf | h_10 hf | h_15 hf | h_16 hf => simp [hf] at hten
  case h_17 =>
    exfalso
    simp only [imp_false] at *
    bv_omega
  all_goals exact ⟨_, _, rfl, rfl, rfl⟩

/-! ### The selector bits -/

/-- The bits that the decoder selects by in a family (R89-R93). -/
def selectorMask (f : Nibble) : Word :=
  match f with
  | 0x0#4 => 0xFFFF
  | 0x5#4 | 0x8#4 | 0x9#4 => 0xF00F
  | 0xE#4 | 0xF#4 => 0xF0FF
  | _ => 0xF000

/-- A word with every operand bit 0: the family and the selector bits are left. -/
def selector (w : Word) : Word := w &&& selectorMask (fieldFamily w)

section selectorFields

variable {w : Word}

/-- Every mask keeps the family. -/
theorem fieldFamily_selector (w : Word) : fieldFamily (selector w) = fieldFamily w := by
  have hmask : ∀ f, fieldFamily (selectorMask f) = BitVec.allOnes 4 := by decide
  calc fieldFamily (selector w) = fieldFamily w &&& fieldFamily (selectorMask (fieldFamily w)) := BitVec.extractLsb'_and
    _ = fieldFamily w := by rw [hmask, BitVec.and_allOnes]

theorem selector_of_mask (h : selectorMask (fieldFamily w) = BitVec.allOnes 16) : selector w = w := by
  rw [selector, h, BitVec.and_allOnes]

theorem fieldN_selector (h : fieldN (selectorMask (fieldFamily w)) = BitVec.allOnes 4) :
    fieldN (selector w) = fieldN w :=
  calc fieldN (selector w) = fieldN w &&& fieldN (selectorMask (fieldFamily w)) := BitVec.extractLsb'_and
    _ = fieldN w := by rw [h, BitVec.and_allOnes]

theorem fieldNn_selector (h : fieldNn (selectorMask (fieldFamily w)) = BitVec.allOnes 8) :
    fieldNn (selector w) = fieldNn w :=
  calc fieldNn (selector w) = fieldNn w &&& fieldNn (selectorMask (fieldFamily w)) := BitVec.extractLsb'_and
    _ = fieldNn w := by rw [h, BitVec.and_allOnes]

end selectorFields

/-- The decoder selects the row by the selector bits alone. -/
theorem selectedRow_decode_selector (w : Word) : (decode (selector w)).selectedRow = (decode w).selectedRow := by
  unfold decode
  rw [fieldFamily_selector]
  split
  case h_1 hf => rw [selector_of_mask (by rw [hf]; rfl)]
  case h_6 hf | h_10 hf =>
    rw [fieldN_selector (by rw [hf]; rfl)]
    split <;> rfl
  case h_9 hf =>
    rw [fieldN_selector (by rw [hf]; rfl)]
    exact selectedRow_decodeFamily8 ..
  case h_15 hf =>
    rw [fieldNn_selector (by rw [hf]; rfl)]
    exact selectedRow_decodeFamilyE ..
  case h_16 hf =>
    rw [fieldNn_selector (by rw [hf]; rfl)]
    exact selectedRow_decodeFamilyF ..
  all_goals rfl

/-! ### The rows that a word matches -/

section rows

variable {r : Row} {w : Word} {i : Instr}

/-- The selector bits of a word that matches a row of the table are the row's value: the row's mask is the one of its
family. -/
theorem selector_eq_value_of_matchesWord (hr : r ∈ opcodeTable) (h : r.matchesWord w = true) :
    selector w = r.value := by
  have hmasks : ∀ r ∈ opcodeTable,
      r.mask = selectorMask (fieldFamily r.value) ∧ fieldFamily r.mask = BitVec.allOnes 4 := by decide
  obtain ⟨hmask, hones⟩ := hmasks r hr
  have hand : w &&& r.mask = r.value := beq_iff_eq.1 h
  have hfam : fieldFamily w = fieldFamily r.value :=
    calc fieldFamily w = fieldFamily w &&& fieldFamily r.mask := by rw [hones, BitVec.and_allOnes]
      _ = fieldFamily (w &&& r.mask) := BitVec.extractLsb'_and.symm
      _ = fieldFamily r.value := by rw [hand]
  rw [selector, hfam, ← hmask, hand]

/-- The decoder selects a row that the word matches: it selects that row for the row's own value. -/
theorem selectedRow_decode_of_matchesWord (hr : r ∈ opcodeTable) (h : r.matchesWord w = true) :
    (decode w).selectedRow = some r := by
  have hvalues : ∀ r ∈ opcodeTable, (decode r.value).selectedRow = some r := by decide
  rw [← selectedRow_decode_selector, selector_eq_value_of_matchesWord hr h, hvalues r hr]

open Laws.EncodesOwnRow in
/-- The word of every instruction matches the instruction's row, and the row stands in the table (R94). -/
theorem encodesOwnRow (i : Instr) : Statement i :=
  match i with
  | .cls => cls | .ret => ret | .jp nnn => jp nnn | .call nnn => call nnn
  | .seImm x nn => seImm x nn | .sneImm x nn => sneImm x nn | .seReg x y => seReg x y | .sneReg x y => sneReg x y
  | .ldImm x nn => ldImm x nn | .addImm x nn => addImm x nn | .rnd x nn => rnd x nn
  | .ldReg x y => ldReg x y | .orReg x y => orReg x y | .andReg x y => andReg x y | .xorReg x y => xorReg x y
  | .addReg x y => addReg x y | .subReg x y => subReg x y | .subn x y => subn x y | .shr x => shr x | .shl x => shl x
  | .ldI nnn => ldI nnn | .jpV0 nnn => jpV0 nnn | .drw x y n => drw x y n | .skp x => skp x | .sknp x => sknp x
  | .ldVxDt x => ldVxDt x | .ldVxK x => ldVxK x | .ldDtVx x => ldDtVx x | .ldStVx x => ldStVx x | .addI x => addI x
  | .ldF x => ldF x | .ldB x => ldB x | .storeRegs x => storeRegs x | .loadRegs x => loadRegs x

/-- The mask of SHR and SHL has no bit in the field that they ignore, bits 7:4. -/
theorem clear_and_mask_of_ignoresY (hy : i.ignoresY = true) : 0xFF0F#16 &&& (rowOf i).mask = (rowOf i).mask := by
  have hmask : (rowOf i).mask = 0xF00F#16 := by
    cases i with
    | shr | shl => rfl
    | _ => cases hy
  rw [hmask]
  decide

/-- A legal word matches the row of its instruction: the instruction's own word does, and the field in which the two
words may differ is not in the mask. -/
theorem rowOf_matchesWord (h : decode w = .instr i) : (rowOf i).matchesWord w = true := by
  obtain ⟨hown, -⟩ := encodesOwnRow i
  cases hy : i.ignoresY with
  | false => rwa [encode_of_decode h hy] at hown
  | true =>
    rwa [encode_of_decode_of_ignoresY h hy, Row.matchesWord, BitVec.and_assoc, clear_and_mask_of_ignoresY hy] at hown

end rows

/-- Settles O4: the rows that a word matches are those that the decoder selects, at most one. -/
theorem everyWordMatchesAtMostOneRow : Obligations.EveryWordMatchesAtMostOneRow := by
  intro w
  cases hd : decode w with
  | illegalOpcode =>
    refine .inl ⟨rfl, fun r hr => Bool.eq_false_of_not_eq_true fun hmatch => ?_⟩
    simpa [hd, Decoded.selectedRow] using selectedRow_decode_of_matchesWord hr hmatch
  | instr i =>
    have hmatch := rowOf_matchesWord hd
    have honly (r : Row) : r ∈ opcodeTable.filter (·.matchesWord w) ↔ r ∈ [rowOf i] := by
      rw [List.mem_filter, List.mem_singleton]
      constructor
      · rintro ⟨hr, hr'⟩
        simpa [hd, Decoded.selectedRow, eq_comm] using selectedRow_decode_of_matchesWord hr hr'
      · rintro rfl
        exact ⟨(encodesOwnRow i).2, hmatch⟩
    have hnodup : opcodeTable.Nodup := by decide
    have hperm := (List.perm_ext_iff_of_nodup (hnodup.filter _) (List.nodup_singleton _)).2 honly
    exact .inr ⟨i, rfl, hmatch, List.perm_singleton.1 hperm⟩

end Sys2Proof
end

section
/-! PROOF. The fetch-decode-execute cycle (30_encoding.md R84-R87): what a step of a running core does at PC, in its
three outcomes, and what an instruction that completes leaves in PC. -/

namespace Sys2Proof.Machine

/-! ### The fetched word -/

/-- The word of two bytes, as R84 writes it. -/
theorem assembleWord_eq_or (hi lo : Byte) : assembleWord hi lo = (hi.setWidth 16 <<< 8 ||| lo.setWidth 16) := by
  apply BitVec.eq_of_toNat_eq
  have hhi : hi.toNat <<< 8 < 2 ^ 16 := by
    rw [Nat.shiftLeft_eq]
    omega
  have hzext (b : Byte) : (b.setWidth 16).toNat = b.toNat := BitVec.toNat_setWidth_of_le (by decide)
  rw [assembleWord, BitVec.toNat_append, BitVec.toNat_or, BitVec.toNat_shiftLeft, hzext, hzext, Nat.mod_eq_of_lt hhi]

section fetch

variable {s : State} {w : Word} {i : Instr}

/-- A word that is the number of the two bytes at PC is the fetched word. -/
theorem State.fetch_eq_of_toNat
    (hw : w.toNat = (s.mem.read s.pc.toNat).toNat * 256 + (s.mem.read (s.pc.toNat + 1)).toNat) : s.fetch = w :=
  BitVec.eq_of_toNat_eq (s.fetch_toNat.trans hw.symm)

/-- One cycle where the PC is good and the word is no instruction (R86, R96). -/
theorem fetchExecute_of_illegal (hf : fetchable s.pc = true) (hd : decode s.fetch = .illegalOpcode) :
    fetchExecute s = .next (s.faultedAt .illegalOpcode s.fetch) := by
  simp [fetchExecute, hf, hd, State.raise]

/-- One cycle where the PC is not good (R85). -/
theorem fetchExecute_of_not_fetchable (hf : fetchable s.pc = false) :
    fetchExecute s = .next (s.faultedAt .invariantPc 0) := by
  simp [fetchExecute, hf, State.raise]

end fetch

/-- Settles O6: taking the event off the list moves neither PC nor the bytes there. -/
theorem stepRunsDecodedInstruction : Obligations.StepRunsDecodedInstruction := by
  intro s w i hr hn heven hle hw hd
  have hf : fetchable s.takeEvent.pc = true := (fetchable_iff _).2 ⟨heven, hle⟩
  have hfetch : s.takeEvent.fetch = w := State.fetch_eq_of_toNat hw
  rw [step_of_running hr hn, fetchExecute_of_instr hf (hfetch ▸ hd)]

/-- Settles O7: the recorded word is the fetched one. -/
theorem illegalWordFaults : Obligations.IllegalWordFaults := by
  intro s w hr hn heven hle hw hd
  have hf : fetchable s.takeEvent.pc = true := (fetchable_iff _).2 ⟨heven, hle⟩
  have hfetch : s.takeEvent.fetch = w := State.fetch_eq_of_toNat hw
  rw [step_of_running hr hn, fetchExecute_of_illegal hf (hfetch ▸ hd), hfetch]
  rfl

/-- Settles O8: the check of PC comes before the fetch. -/
theorem unfetchablePcFaults : Obligations.UnfetchablePcFaults := by
  intro s hr hn hbad
  have hf : fetchable s.takeEvent.pc = false := by
    rw [← Bool.not_eq_true, fetchable_iff, State.takeEvent_pc]
    omega
  rw [step_of_running hr hn, fetchExecute_of_not_fetchable hf]
  rfl

/-- Settles O60: the fetched word is put together as R84 writes it, and the cycle executes in the state it found. -/
theorem fetchIsBigEndianAndChangesNothing : Obligations.FetchIsBigEndianAndChangesNothing := by
  intro s hpc
  refine ⟨assembleWord_eq_or _ _, fun heven i hd => fetchExecute_of_instr ?_ hd⟩
  exact (fetchable_iff _).2 ⟨heven, by omega⟩

/-! ### PC after an instruction -/

theorem State.storeBytes_pc {s t : State} {a : Nat} {bs : List Byte} (h : s.storeBytes a bs = some t) :
    t.pc = s.pc := by
  obtain ⟨-, rfl⟩ := (s.storeBytes_eq_some t a bs).1 h
  rfl

/-- From `s`, a fault has been taken, or PC has gone up by 2 (R11, R12). -/
def FaultedOrAdvanced (s t : State) : Prop := (∃ c w, t = s.faultedAt c w) ∨ t.pc = s.pc + 2

/-- An instruction that gives PC no other value ends in its fault or advances PC by 2 (R87). -/
theorem exec_faultedOrAdvanced {i : Instr} {s t : State} (hi : setsPc i = false) (h : exec i s = .next t) :
    FaultedOrAdvanced s t := by
  cases i with
  | ldB | storeRegs =>
    exact State.orRaise_next_induction (FaultedOrAdvanced s) h (.inl ⟨_, _, rfl⟩)
      fun u hstore => .inr (congrArg (· + 2) (State.storeBytes_pc hstore))
  | drw | loadRegs =>
    exact State.orRaise_next_induction (FaultedOrAdvanced s) h (.inl ⟨_, _, rfl⟩) fun _ _ => .inr rfl
  | ret | jp | call | jpV0 | seImm | sneImm | seReg | sneReg | skp | sknp | ldVxK => cases hi
  | cls | ldImm | addImm | rnd | ldI | addI | ldF | ldVxDt | ldDtVx | ldStVx
  | ldReg | orReg | andReg | xorReg | addReg | subReg | shr | subn | shl =>
    exact Result.next_induction (FaultedOrAdvanced s) h (.inr rfl)

/-- Settles O52: a core that stays running has not faulted. -/
theorem pcAdvancesByTwoElsewhere : Obligations.PcAdvancesByTwoElsewhere := by
  intro i s t hi h hrun hr
  obtain ⟨c, w, rfl⟩ | hpc := exec_faultedOrAdvanced hi h
  · simp [hr] at hrun
  · exact hpc

end Sys2Proof.Machine
end

section
/-! PROOF. Control flow (40_control_flow.md R120-R129): how a return and a call end, with a slot to pop or to push and
without one, that the two undo each other, and where a jump and a compare skip leave PC. -/

namespace Sys2Proof.Machine

/-! ### Widening to 16 bits (00_scope.md R8) -/

theorem zextAddr_toNat (nnn : Addr) : (zextAddr nnn).toNat = nnn.toNat := BitVec.toNat_setWidth_of_le (by decide)

theorem zextByte_toNat (b : Byte) : (zextByte b).toNat = b.toNat := BitVec.toNat_setWidth_of_le (by decide)

/-! ### Return and call -/

section stack

variable {s t : State} {w : Word} {nnn : Addr}

theorem exec_ret_of_pop (h : s.pop = some (w, t)) : exec .ret s = .next (t.setPc w) :=
  (s.orRaise_eq_next _ _ _ _ _).2 (.inl ⟨(w, t), h, rfl⟩)

theorem exec_ret_of_sp_eq_zero (h : s.sp.val = 0) :
    exec .ret s = .next (s.faultedAt .stackUnderflow (encode .ret)) :=
  (s.orRaise_eq_next _ _ _ _ _).2 (.inr ⟨s.pop_eq_none.2 h, rfl⟩)

theorem exec_call_of_push (h : s.push (s.pc + 2) = some t) : exec (.call nnn) s = .next (t.setPc (zextAddr nnn)) :=
  (s.orRaise_eq_next _ _ _ _ _).2 (.inl ⟨t, h, rfl⟩)

theorem exec_call_of_sp_eq_sixteen (h : s.sp.val = 16) :
    exec (.call nnn) s = .next (s.faultedAt .stackOverflow (encode (.call nnn))) :=
  (s.orRaise_eq_next _ _ _ _ _).2 (.inr ⟨(s.push_eq_none _).2 h, rfl⟩)

/-- Below a full stack a push succeeds: it writes the slot at SP and no other (R122). -/
theorem State.exists_push (w : Word) (h : s.sp.val < 16) :
    ∃ t, s.push w = some t ∧ t.sp.val = s.sp.val + 1 ∧ t.stack = s.stack.set s.sp.val w h :=
  ⟨_, (s.push_eq_some _ w).2 ⟨h, rfl⟩, rfl, rfl⟩

/-- On a non-empty stack a pop succeeds: it gives the slot below SP (R121). -/
theorem State.exists_pop (h : s.sp.val ≠ 0) :
    ∃ w t, s.pop = some (w, t) ∧ t.sp.val = s.sp.val - 1 ∧ s.stack[s.sp.val - 1]? = some w :=
  ⟨_, _, (s.pop_eq_some _ _).2 ⟨h, rfl, rfl⟩, rfl, Vector.getElem?_eq_getElem _⟩

/-- A pop from the stack that a push left gives back what was pushed, and the SP from before the push. -/
theorem State.pop_of_push {u : State} (h : s.push w = some t) (hsp : u.sp = t.sp) (hstack : u.stack = t.stack) :
    u.pop = some (w, { u with sp := s.sp }) := by
  obtain ⟨hlt, rfl⟩ := (s.push_eq_some t w).1 h
  have hval : u.sp.val = s.sp.val + 1 := congrArg Fin.val hsp
  refine (u.pop_eq_some _ w).2 ⟨by omega, ?_, ?_⟩
  · simp [hstack, hval]
  · simp [hval]

end stack

/-- Settles O14: a return ends by whether there is a slot to pop. -/
theorem retPopsIntoPc : Obligations.RetPopsIntoPc := by
  intro s
  refine ⟨decodeInvertsEncode .ret, fun hsp => ?_, exec_ret_of_sp_eq_zero⟩
  obtain ⟨w, t, hpop, hsp', hslot⟩ := State.exists_pop hsp
  exact ⟨_, exec_ret_of_pop hpop, hsp', hslot, (ChangesOnly.of_pop hpop (by simp)).setPc w (by simp)⟩

/-- Settles O15: a call ends by whether there is a free slot to push to. -/
theorem callPushesAndJumps : Obligations.CallPushesAndJumps := by
  intro nnn s
  refine ⟨decodeInvertsEncode (.call nnn), fun hsp => ?_, exec_call_of_sp_eq_sixteen⟩
  obtain ⟨t, hpush, hsp', hstack⟩ := State.exists_push (s.pc + 2) hsp
  refine ⟨_, exec_call_of_push hpush, ?_, fun j hj => ?_, hsp', zextAddr_toNat nnn,
    (ChangesOnly.of_push hpush (by simp) (by simp)).setPc _ (by simp)⟩
  · simp [hstack, hsp]
  · simp [hstack, Vector.getElem_set_ne _ _ hj.symm]

/-- Settles O16: the return pops what the call pushed. -/
theorem retAfterCallReturns : Obligations.RetAfterCallReturns := by
  intro nnn s t u hlt hcall hsp hstack
  obtain ⟨p, hpush, -⟩ := State.exists_push (s.pc + 2) hlt
  obtain rfl : p.setPc (zextAddr nnn) = t := Host.Outcome.next.inj ((exec_call_of_push hpush).symm.trans hcall)
  exact ⟨_, exec_ret_of_pop (State.pop_of_push hpush hsp hstack), rfl, rfl⟩

/-! ### Jumps -/

/-- The target of `JP V0` as a number: a 12-bit address and a byte do not wrap at 16 bits (R124). -/
theorem State.jumpOffsetTarget_toNat (s : State) (nnn : Addr) :
    (s.jumpOffsetTarget nnn).toNat = nnn.toNat + (s.reg 0).toNat := by
  have hlt : nnn.toNat + (s.reg 0).toNat < 2 ^ 16 := by omega
  rw [State.jumpOffsetTarget, BitVec.toNat_add, zextAddr_toNat, zextByte_toNat, Nat.mod_eq_of_lt hlt]

theorem ChangesOnly.pc_setPc (s : State) (w : Word) : ChangesOnly [.pc] s (s.setPc w) :=
  (ChangesOnly.refl _ s).setPc w (by simp)

/-- Settles O17: the target is the address, widened. -/
theorem jumpSetsPc : Obligations.JumpSetsPc := fun nnn s =>
  ⟨decodeInvertsEncode (.jp nnn), _, rfl, zextAddr_toNat nnn, ChangesOnly.pc_setPc s _⟩

/-- Settles O18: the target is the sum, which 16 bits hold. -/
theorem offsetJumpAddsV0 : Obligations.OffsetJumpAddsV0 := fun nnn s =>
  ⟨decodeInvertsEncode (.jpV0 nnn), _, rfl, s.jumpOffsetTarget_toNat nnn, ChangesOnly.pc_setPc s _⟩

/-! ### Compare skips -/

section skips

variable (s : State) (a b : Byte)

/-- Where a skip leaves PC, in the two cases of its condition (R129). -/
theorem State.skipIf_of_cases {c : Bool} {P Q : Prop} (hP : P → c = true) (hQ : Q → c = false) :
    (P → (s.skipIf c).pc = s.pc + 4) ∧ (Q → (s.skipIf c).pc = s.pc + 2) ∧ ChangesOnly [.pc] s (s.skipIf c) :=
  ⟨fun h => by simp [hP h], fun h => by simp [hQ h], (ChangesOnly.refl _ s).skipIf c (by simp)⟩

/-- A skip on equality, the bytes compared as numbers. -/
theorem State.skipIf_beq :
    (a.toNat = b.toNat → (s.skipIf (a == b)).pc = s.pc + 4) ∧
      (a.toNat ≠ b.toNat → (s.skipIf (a == b)).pc = s.pc + 2) ∧ ChangesOnly [.pc] s (s.skipIf (a == b)) :=
  s.skipIf_of_cases (fun h => beq_iff_eq.2 (BitVec.eq_of_toNat_eq h))
    fun h => beq_eq_false_iff_ne.2 (ne_of_apply_ne BitVec.toNat h)

/-- A skip on inequality, likewise. -/
theorem State.skipIf_bne :
    (a.toNat ≠ b.toNat → (s.skipIf (a != b)).pc = s.pc + 4) ∧
      (a.toNat = b.toNat → (s.skipIf (a != b)).pc = s.pc + 2) ∧ ChangesOnly [.pc] s (s.skipIf (a != b)) :=
  s.skipIf_of_cases (fun h => bne_iff_ne.2 (ne_of_apply_ne BitVec.toNat h))
    fun h => bne_eq_false_iff_eq.2 (BitVec.eq_of_toNat_eq h)

end skips

/-- Settles O19: the two instructions skip on equality and on inequality with the immediate. -/
theorem immediateSkips : Obligations.ImmediateSkips := fun x nn s =>
  ⟨⟨decodeInvertsEncode (.seImm x nn), _, rfl, s.skipIf_beq (s.reg x) nn⟩,
    ⟨decodeInvertsEncode (.sneImm x nn), _, rfl, s.skipIf_bne (s.reg x) nn⟩⟩

/-- Settles O20: the two instructions skip on equality and on inequality of the registers. -/
theorem registerSkips : Obligations.RegisterSkips := fun x y s =>
  ⟨⟨decodeInvertsEncode (.seReg x y), _, rfl, s.skipIf_beq (s.reg x) (s.reg y)⟩,
    ⟨decodeInvertsEncode (.sneReg x y), _, rfl, s.skipIf_bne (s.reg x) (s.reg y)⟩⟩

end Sys2Proof.Machine
end

section
/-! PROOF. Register ALU operations (41_alu.md R140-R149): where a result and its flag end up, and the numbers that the
results and the flags are. -/

namespace Sys2Proof.Machine

/-! ### A result without a flag -/

section results

variable (s : State) (x : Nibble) (r : Byte)

theorem State.reg_setReg_advance : (s.setReg x r).advance.reg x = r := by simp

theorem ChangesOnly.setReg_advance : ChangesOnly [.reg x, .pc] s (s.setReg x r).advance :=
  ((ChangesOnly.refl _ s).setReg x r (by simp)).advance (by simp)

end results

/-- Settles O21: each of the four writes its result to V[x] and goes on, and its result is taken bit by bit. -/
theorem copyAndLogicWriteOnlyTheirDestination : Obligations.CopyAndLogicWriteOnlyTheirDestination := fun x y s =>
  ⟨⟨decodeInvertsEncode (.ldReg x y), _, rfl, s.reg_setReg_advance x _, rfl, ChangesOnly.setReg_advance s x _⟩,
    ⟨decodeInvertsEncode (.orReg x y), _, rfl, rfl, ChangesOnly.setReg_advance s x _,
      fun b => by rw [State.reg_setReg_advance, BitVec.getLsbD_or]⟩,
    ⟨decodeInvertsEncode (.andReg x y), _, rfl, rfl, ChangesOnly.setReg_advance s x _,
      fun b => by rw [State.reg_setReg_advance, BitVec.getLsbD_and]⟩,
    ⟨decodeInvertsEncode (.xorReg x y), _, rfl, rfl, ChangesOnly.setReg_advance s x _,
      fun b => by rw [State.reg_setReg_advance, BitVec.getLsbD_xor]⟩⟩

/-! ### A result and then its flag -/

/-- What an instruction with a flag answers, for a property `P` of its result and the number `n` of its flag: the flag
is written last, so with x = F only the flag is left (R140, decision D7). -/
theorem State.exists_finishFlag (s : State) (x : Nibble) {r : Byte} {f : Bool} {n : Nat} {P : Byte → Prop} (hr : P r)
    (hf : (flagByte f).toNat = n) :
    ∃ t, s.finishFlag x r f = .next t ∧ (x ≠ 0xF#4 → P (t.reg x)) ∧ (t.reg 0xF#4).toNat = n ∧
      t.pc = s.pc + 2 ∧ ChangesOnly [.reg x, .reg 0xF#4, .pc] s t := by
  refine ⟨((s.setReg x r).setFlag f).advance, rfl, fun hx => ?_, ?_, rfl, ?_⟩
  · simpa [regVF, hx] using hr
  · simpa [regVF] using hf
  · exact (((ChangesOnly.refl _ s).setReg x r (by simp)).setFlag f (by simp [regVF])).advance (by simp)

/-! ### The numbers of the results and of the flags -/

section numbers

variable (a b : Byte)

/-- A flag is 1 exactly when its condition holds (R22). -/
theorem flagByte_decide_toNat (p : Prop) [Decidable p] : (flagByte (decide p)).toNat = if p then 1 else 0 := by
  by_cases hp : p <;> simp [flagByte, hp]

/-- A bit as a flag is the number of that bit. -/
theorem flagByte_getLsbD_toNat (k : Nat) : (flagByte (a.getLsbD k)).toNat = a.toNat / 2 ^ k % 2 := by
  rw [BitVec.getLsbD, Nat.testBit_eq_decide_div_mod_eq, flagByte_decide_toNat]
  split <;> omega

/-- The difference of two bytes as integers, mod 256. -/
theorem toNat_sub_eq_emod : ((a - b).toNat : Int) = ((a.toNat : Int) - b.toNat) % 256 := by
  rw [BitVec.toNat_sub]
  omega

theorem toNat_shiftRight_one : (a >>> 1).toNat = a.toNat / 2 := by
  rw [BitVec.toNat_ushiftRight, Nat.shiftRight_eq_div_pow, pow_one]

theorem toNat_shiftLeft_one : (a <<< 1).toNat = a.toNat * 2 % 256 := by
  rw [BitVec.toNat_shiftLeft, Nat.shiftLeft_eq, pow_one]

theorem flagByte_shiftedOutRight_toNat : (flagByte (shiftedOutRight a)).toNat = a.toNat % 2 := by
  rw [shiftedOutRight, flagByte_getLsbD_toNat, pow_zero, Nat.div_one]

/-- The top bit of a byte is all that is left of it above 128. -/
theorem flagByte_shiftedOutLeft_toNat : (flagByte (shiftedOutLeft a)).toNat = a.toNat / 128 := by
  rw [shiftedOutLeft, flagByte_getLsbD_toNat]
  omega

end numbers

/-- Settles O22: the sum wraps at 256, and the carry is the test that it does. -/
theorem addSetsCarry : Obligations.AddSetsCarry := fun x y s =>
  ⟨decodeInvertsEncode (.addReg x y),
    s.exists_finishFlag x (P := (·.toNat = _)) (BitVec.toNat_add _ _) (flagByte_decide_toNat _)⟩

/-- Settles O23: the differences wrap at 256, and the flag compares the operands in the order of the subtraction. -/
theorem subtractionsSetNoBorrow : Obligations.SubtractionsSetNoBorrow := fun x y s =>
  ⟨⟨decodeInvertsEncode (.subReg x y),
      s.exists_finishFlag x (P := fun v => (v.toNat : Int) = _) (toNat_sub_eq_emod _ _) (flagByte_decide_toNat _)⟩,
    ⟨decodeInvertsEncode (.subn x y),
      s.exists_finishFlag x (P := fun v => (v.toNat : Int) = _) (toNat_sub_eq_emod _ _) (flagByte_decide_toNat _)⟩⟩

/-- Settles O24: the word decodes by its selector alone, and the bit shifted out is that of the value before the
shift. -/
theorem shiftsSetShiftedOutBit : Obligations.ShiftsSetShiftedOutBit := fun x y s =>
  ⟨⟨decode_family8_word x y 0x6#4,
      s.exists_finishFlag x (P := (·.toNat = _)) (toNat_shiftRight_one _) (flagByte_shiftedOutRight_toNat _)⟩,
    ⟨decode_family8_word x y 0xE#4,
      s.exists_finishFlag x (P := (·.toNat = _)) (toNat_shiftLeft_one _) (flagByte_shiftedOutLeft_toNat _)⟩⟩

end Sys2Proof.Machine
end

section
/-! PROOF. Immediate operations and the glyph address (42_immediate.md R160-R165, 43_memory_font.md R184): what they
leave in V[x] and in I, and what `RND` takes from the plan of the input. -/

namespace Sys2Proof.Machine

/-- Settles O25: each of the two writes its result to V[x] and goes on; the sum of two bytes wraps at 256. -/
theorem immediateLoadAndAddWriteNoFlag : Obligations.ImmediateLoadAndAddWriteNoFlag := fun x nn s =>
  ⟨⟨decodeInvertsEncode (.ldImm x nn), _, rfl, s.reg_setReg_advance x nn, rfl, ChangesOnly.setReg_advance s x nn⟩,
    ⟨decodeInvertsEncode (.addImm x nn), _, rfl, by rw [State.reg_setReg_advance, BitVec.toNat_add], rfl,
      ChangesOnly.setReg_advance s x _⟩⟩

/-! ### The writers of I -/

theorem ChangesOnly.setI_advance (s : State) (w : Word) : ChangesOnly [.i, .pc] s (s.setI w).advance :=
  ((ChangesOnly.refl _ s).setI w (by simp)).advance (by simp)

/-- The sum of `ADD I` as a number: keeping 12 bits of a sum mod 2^16 is the sum mod 2^12 (R164, decision D10). -/
theorem indexSum_toNat (i : Word) (a : Byte) : (indexSum i a).toNat = (i.toNat + a.toNat) % 4096 := by
  have hmask : (0x0FFF : Word).toNat = 2 ^ 12 - 1 := rfl
  rw [indexSum, BitVec.toNat_and, hmask, Nat.and_two_pow_sub_one_eq_mod, BitVec.toNat_add, zextByte_toNat]
  exact Nat.mod_mod_of_dvd _ (by decide)

/-- Settles O26: the address is left in I widened. -/
theorem indexLoadSetsI : Obligations.IndexLoadSetsI := fun nnn s =>
  ⟨decodeInvertsEncode (.ldI nnn), _, rfl, zextAddr_toNat nnn, rfl, ChangesOnly.setI_advance s _⟩

/-- Settles O27: the sum wraps at 4096, and 16 bits hold the glyph address. -/
theorem indexAddAndGlyphAddress : Obligations.IndexAddAndGlyphAddress := fun x s =>
  ⟨⟨decodeInvertsEncode (.addI x), _, rfl, indexSum_toNat s.i (s.reg x), rfl, ChangesOnly.setI_advance s _⟩,
    ⟨decodeInvertsEncode (.ldF x), _, rfl, glyphAddress_toNat (s.reg x), rfl, ChangesOnly.setI_advance s _⟩⟩

/-! ### The random byte -/

section sample

variable {s : State} {b : Byte} {rest : List Byte}

/-- A sample takes the byte at the head of the plan, and the plan is left without it (R46). -/
theorem State.rndSample_of_plan (h : s.rndPlan = b :: rest) :
    s.rndSample = b ∧ s.afterRndSample.rndPlan = rest := by
  simp [State.rndSample, h]

/-- An empty plan stays empty. -/
theorem State.afterRndSample_rndPlan_of_nil (h : s.rndPlan = []) : s.afterRndSample.rndPlan = [] := by
  simp [h]

end sample

/-- Settles O28: the sample that is masked is the one the plan gives, and the register is written after it is taken. -/
theorem randomByteIsMasked : Obligations.RandomByteIsMasked := fun x nn s =>
  ⟨decodeInvertsEncode (.rnd x nn), _, s.rndSample, rfl, fun _ _ => State.rndSample_of_plan,
    State.afterRndSample_rndPlan_of_nil, rfl, State.reg_setReg_advance _ x _, rfl,
    (((ChangesOnly.refl _ s).afterRndSample (by simp) (by simp)).setReg x _ (by simp)).advance (by simp)⟩

end Sys2Proof.Machine
end

section
/-! PROOF. Memory block operations (43_memory_font.md R180-R183): a block at I that ends above 0xFFF faults before any
access, and one that fits is stored or loaded byte by byte, with every byte and every register outside it kept. -/

namespace Sys2Proof.Machine

/-! ### The two outcomes of a checked block -/

section blocks

variable {s : State} {a n : Nat} {bs : List Byte}

theorem State.orRaise_of_some {α : Type} {r : Option α} {b : α} {c : Cause} {w : Word} {rest : α → Result}
    (h : r = some b) : s.orRaise r c w rest = rest b := by
  rw [h, State.orRaise]

theorem State.orRaise_of_none {α : Type} {r : Option α} {c : Cause} {w : Word} {rest : α → Result} (h : r = none) :
    s.orRaise r c w rest = .next (s.faultedAt c w) := by
  rw [h, State.orRaise, State.raise]

/-- A block of n + 1 bytes lies in memory when its last byte does (R66). -/
theorem inMemory_succ (h : a + n ≤ 0xFFF) : inMemory a (n + 1) = true :=
  (inMemory_iff _ _).2 (.inr (by omega))

theorem not_inMemory_succ (h : a + n > 0xFFF) : inMemory a (n + 1) = false :=
  (inMemory_eq_false_iff _ _).2 ⟨by omega, h⟩

theorem State.loadBytes_of_fits (h : a + n ≤ 0xFFF) : s.loadBytes a (n + 1) = some (s.mem.readBytes a (n + 1)) :=
  (s.loadBytes_eq_some _ _ _).2 ⟨inMemory_succ h, rfl⟩

theorem State.loadBytes_of_overrun (h : a + n > 0xFFF) : s.loadBytes a (n + 1) = none :=
  (s.loadBytes_eq_none _ _).2 (not_inMemory_succ h)

theorem State.storeBytes_of_fits (hlen : bs.length = n + 1) (h : a + n ≤ 0xFFF) :
    s.storeBytes a bs = some { s with mem := s.mem.writeBytes a bs } :=
  (s.storeBytes_eq_some _ _ _).2 ⟨hlen ▸ inMemory_succ h, rfl⟩

theorem State.storeBytes_of_overrun (hlen : bs.length = n + 1) (h : a + n > 0xFFF) : s.storeBytes a bs = none :=
  (s.storeBytes_eq_none _ _).2 (hlen ▸ not_inMemory_succ h)

/-- Storing a block that fits, and going on, writes memory and PC alone. -/
theorem ChangesOnly.writeBytes_advance (hlen : bs.length = n + 1) (h : a + n ≤ 0xFFF) :
    ChangesOnly [.mem, .pc] s { s with mem := s.mem.writeBytes a bs }.advance :=
  (ChangesOnly.of_storeBytes (State.storeBytes_of_fits hlen h) (by simp)).advance (by simp)

end blocks

/-! ### The bytes of a stored block -/

section bytes

variable {m : Memory} {a k n : Nat} {bs : List Byte}

/-- Inside a stored block, each address reads as the block's own byte (R64, R67). -/
theorem Memory.read_writeBytes_inside (hfits : a + bs.length ≤ Config.memSize) (hwf : m.wf = true)
    (hk : k < bs.length) : (m.writeBytes a bs).read (a + k) = bs[k] := by
  rw [Memory.read_writeBytes hfits hwf, if_pos (Nat.le_add_right ..), Nat.add_sub_cancel_left,
    List.getD_eq_getElem _ _ hk]

/-- Below a stored block and above its last byte, memory is as before. -/
theorem Memory.read_writeBytes_of_not_within (hlen : bs.length = n + 1) (hk : k < a ∨ a + n < k) :
    (m.writeBytes a bs).read k = m.read k :=
  m.read_writeBytes_outside bs (by omega)

/-- A block of the three digits reads back as hundreds, tens and ones, each below 256 (R181). -/
theorem read_writeBytes_bcdDigits (b : Byte) (hfits : a + 2 ≤ 0xFFF) (hwf : m.wf = true) :
    ((m.writeBytes a (bcdDigits b)).read a).toNat = b.toNat / 100 ∧
      ((m.writeBytes a (bcdDigits b)).read (a + 1)).toNat = b.toNat / 10 % 10 ∧
      ((m.writeBytes a (bcdDigits b)).read (a + 2)).toNat = b.toNat % 10 := by
  have hin : a + (bcdDigits b).length ≤ Config.memSize := by
    rw [length_bcdDigits, Config.memSize]
    omega
  have hdigit {k d : Nat} (hk : k < 3) (hd : d < 256) (hdk : (bcdDigits b)[k] = BitVec.ofNat 8 d) :
      ((m.writeBytes a (bcdDigits b)).read (a + k)).toNat = d := by
    rw [Memory.read_writeBytes_inside hin hwf hk, hdk, BitVec.toNat_ofNat, Nat.mod_eq_of_lt hd]
  exact ⟨hdigit (k := 0) (by omega) (by omega) rfl, hdigit (by omega) (by omega) rfl,
    hdigit (by omega) (by omega) rfl⟩

end bytes

/-- Settles O29: the three digits are a block of three bytes at I. -/
theorem bcdIsStored : Obligations.BcdIsStored := by
  intro x s
  have hlen := length_bcdDigits (s.reg x)
  refine ⟨decodeInvertsEncode (.ldB x), fun hfits => ?_,
    fun hover => State.orRaise_of_none (State.storeBytes_of_overrun hlen hover)⟩
  exact ⟨_, State.orRaise_of_some (State.storeBytes_of_fits hlen hfits),
    read_writeBytes_bcdDigits (s.reg x) hfits, fun _ => Memory.read_writeBytes_of_not_within hlen, rfl,
    ChangesOnly.writeBytes_advance hlen hfits⟩

/-- Settles O30: V0..Vx are a block of x + 1 bytes at I. -/
theorem registersAreStored : Obligations.RegistersAreStored := by
  intro x s
  have hlen := s.length_regsUpTo x
  refine ⟨decodeInvertsEncode (.storeRegs x), fun hfits => ?_,
    fun hover => State.orRaise_of_none (State.storeBytes_of_overrun hlen hover)⟩
  exact ⟨_, exec_storeRegs_of_fits hfits, fun hwf _ => read_writeBytes_regsUpTo hfits hwf,
    fun _ => Memory.read_writeBytes_of_not_within hlen, rfl, ChangesOnly.writeBytes_advance hlen hfits⟩

/-! ### The registers of a loaded block -/

theorem reg_mem_allRegs (r : Nibble) : .reg r ∈ allRegs :=
  List.mem_map.2 ⟨r.toNat, List.mem_range.2 r.isLt, by simp⟩

section load

variable (s : State) {a n : Nat} {r : Nibble}

/-- A register that a block of n bytes reaches gets its own byte of the block (R183). -/
theorem State.reg_setRegs_readBytes_of_lt (hr : r.toNat < n) :
    (s.setRegs (s.mem.readBytes a n)).reg r = s.mem.read (a + r.toNat) := by
  have hlt : r.toNat < (s.mem.readBytes a n).length := by rwa [Memory.length_readBytes]
  rw [State.reg_setRegs, List.getD_eq_getElem _ _ hlt, Memory.getElem_readBytes]

/-- A register above the block keeps its value. -/
theorem State.reg_setRegs_readBytes_of_le (hr : n ≤ r.toNat) :
    (s.setRegs (s.mem.readBytes a n)).reg r = s.reg r := by
  rw [State.reg_setRegs, List.getD_eq_default _ _ (by rwa [Memory.length_readBytes])]

theorem ChangesOnly.setRegs_advance (bs : List Byte) : ChangesOnly (.pc :: allRegs) s (s.setRegs bs).advance :=
  ((ChangesOnly.refl _ s).setRegs bs fun r _ => List.mem_cons_of_mem _ (reg_mem_allRegs r)).advance
    List.mem_cons_self

end load

/-- Settles O31: the block of x + 1 bytes at I reaches the registers up to Vx and no other. -/
theorem registersAreLoaded : Obligations.RegistersAreLoaded := by
  intro x s
  refine ⟨decodeInvertsEncode (.loadRegs x), fun hfits => ?_,
    fun hover => State.orRaise_of_none (State.loadBytes_of_overrun hover)⟩
  exact ⟨_, State.orRaise_of_some (State.loadBytes_of_fits hfits),
    fun _ hr => s.reg_setRegs_readBytes_of_lt (Nat.lt_succ_of_le hr),
    fun _ hr => s.reg_setRegs_readBytes_of_le hr, rfl, ChangesOnly.setRegs_advance s _⟩

end Sys2Proof.Machine
end

section
/-! PROOF. The display (44_display.md R200-R208): what the blitter does to the pixels and to the collision flag, composed
from its single-byte XORs to a sprite, and with it the two display instructions. -/

namespace Sys2Proof.Machine

/-! ### XORing a mask of pixels into the framebuffer -/

/-- The result `d` of a drawing on `fb` that XORs the pixels of the mask and flags that one of them was lit
(R200, R201). -/
structure Blits (fb : Framebuffer) (d : Framebuffer × Bool) (mask : Nat → Nat → Bool) : Prop where
  pixel_eq : ∀ c < 64, ∀ r < 32, pixel d.1 c r = (pixel fb c r ^^ mask c r)
  flag_iff : d.2 = true ↔ ∃ c < 64, ∃ r < 32, pixel fb c r = true ∧ mask c r = true

section masks

variable {fb : Framebuffer} {d e : Framebuffer × Bool} {m m' p : Nat → Nat → Bool}

/-- Only the mask on the screen counts. -/
theorem Blits.congr (h : Blits fb d m) (hm : ∀ c < 64, ∀ r < 32, m c r = m' c r) : Blits fb d m' where
  pixel_eq c hc r hr := hm c hc r hr ▸ h.pixel_eq c hc r hr
  flag_iff := by
    rw [h.flag_iff]
    constructor
    · rintro ⟨c, hc, r, hr, hlit, hmask⟩
      exact ⟨c, hc, r, hr, hlit, hm c hc r hr ▸ hmask⟩
    · rintro ⟨c, hc, r, hr, hlit, hmask⟩
      exact ⟨c, hc, r, hr, hlit, (hm c hc r hr).trans hmask⟩

/-- A mask can be drawn in two parts, first inside `p` and then outside it: the first drawing leaves the pixels of the
second as they were, so each flag speaks of the pixels before both. -/
theorem Blits.of_parts (h₁ : Blits fb d fun c r => p c r && m c r) (h₂ : Blits d.1 e fun c r => !p c r && m c r) :
    Blits fb (e.1, d.2 || e.2) m where
  pixel_eq c hc r hr := by
    rw [h₂.pixel_eq c hc r hr, h₁.pixel_eq c hc r hr]
    cases p c r <;> simp
  flag_iff := by
    have hkept {c r : Nat} (hc : c < 64) (hr : r < 32) (hp : p c r = false) : pixel d.1 c r = pixel fb c r := by
      simp [h₁.pixel_eq c hc r hr, hp]
    rw [Bool.or_eq_true, h₁.flag_iff, h₂.flag_iff]
    constructor
    · rintro (⟨c, hc, r, hr, hlit, hmask⟩ | ⟨c, hc, r, hr, hlit, hmask⟩)
      · exact ⟨c, hc, r, hr, hlit, (Bool.and_eq_true_iff.1 hmask).2⟩
      · obtain ⟨hp, hm⟩ := Bool.and_eq_true_iff.1 hmask
        exact ⟨c, hc, r, hr, hkept hc hr (by simpa using hp) ▸ hlit, hm⟩
    · rintro ⟨c, hc, r, hr, hlit, hm⟩
      cases hp : p c r with
      | true => exact .inl ⟨c, hc, r, hr, hlit, by simp [hp, hm]⟩
      | false => exact .inr ⟨c, hc, r, hr, (hkept hc hr hp).trans hlit, by simp [hp, hm]⟩

/-- The flag in terms of the pixels alone: a lit pixel lies in the mask exactly when the drawing clears it. -/
theorem Blits.flag_iff_cleared (h : Blits fb d m) :
    d.2 = true ↔ ∃ c < 64, ∃ r < 32, pixel fb c r = true ∧ pixel d.1 c r = false := by
  rw [h.flag_iff]
  refine exists_congr fun c => and_congr_right fun hc => exists_congr fun r => and_congr_right fun hr =>
    and_congr_right fun hlit => ?_
  rw [h.pixel_eq c hc r hr, hlit]
  cases m c r <;> simp

/-- The same mask XORed twice cancels. -/
theorem Blits.cancel (h₁ : Blits fb d m) (h₂ : Blits d.1 e m) : e.1 = fb :=
  fb_ext fun c hc r hr => by
    rw [h₂.pixel_eq c hc r hr, h₁.pixel_eq c hc r hr, Bool.xor_assoc, Bool.xor_self, Bool.xor_false]

end masks

/-! ### One byte of the framebuffer -/

/-- The pixels of the 1 bits of a byte at place `i` of FB (R31). -/
def byteMask (i : Fin 256) (bits : Byte) (c r : Nat) : Bool :=
  decide (i = fbIndex r (c / 8)) && bits.getLsbD (7 - c % 8)

/-- Every bit of every byte of FB is a pixel on the screen (R31). -/
theorem exists_pixel_of_bit (i : Fin 256) {k : Nat} (hk : k < 8) :
    ∃ c < 64, ∃ r < 32, fbIndex r (c / 8) = i ∧ 7 - c % 8 = k := by
  refine ⟨i % 8 * 8 + (7 - k), by omega, i / 8, by omega, Fin.ext ?_, by omega⟩
  simp only [fbIndex]
  omega

/-- Two bytes meet in a 1 exactly when some bit is 1 in both. -/
theorem and_bne_zero_iff (a b : Byte) :
    (a &&& b != 0) = true ↔ ∃ k < 8, a.getLsbD k = true ∧ b.getLsbD k = true := by
  simp [BitVec.eq_of_getLsbD_eq_iff]

theorem blits_xorByte (fb : Framebuffer) (i : Fin 256) (bits : Byte) :
    Blits fb (xorByte fb i bits) (byteMask i bits) where
  pixel_eq c _ r _ := pixel_xorByte fb i bits c r
  flag_iff := by
    refine (and_bne_zero_iff _ _).trans ⟨?_, ?_⟩
    · rintro ⟨k, hk, hlit, hbit⟩
      obtain ⟨c, hc, r, hr, rfl, rfl⟩ := exists_pixel_of_bit i hk
      exact ⟨c, hc, r, hr, hlit, Bool.and_eq_true_iff.2 ⟨decide_eq_true rfl, hbit⟩⟩
    · rintro ⟨c, -, r, -, hlit, hmask⟩
      obtain ⟨hi, hbit⟩ := Bool.and_eq_true_iff.1 hmask
      obtain rfl := of_decide_eq_true hi
      exact ⟨7 - c % 8, by omega, hlit, hbit⟩

/-! ### One row of a sprite -/

/-- Bit k of a row lands 7 - k columns right of x0, wrapping (R200, R202). -/
theorem spriteBit_singleton_iff (s : Byte) {x0 c : Nat} (y r : Nat) (hx : x0 < 64) (hc : c < 64) :
    spriteBit [s] x0 y c r = true ↔
      y % 32 = r % 32 ∧ ∃ k < 8, (c + k) % 64 = (x0 + 7) % 64 ∧ s.getLsbD k = true := by
  simp only [spriteBit, List.length_singleton, Bool.and_eq_true, decide_eq_true_eq, and_assoc]
  constructor
  · rintro ⟨hdown, hacross, hbit⟩
    rw [Nat.lt_one_iff.1 hdown] at hbit
    exact ⟨by omega, _, by omega, by omega, hbit⟩
  · rintro ⟨hrow, k, hk, hcol, hbit⟩
    have hdown : (r + 32 - y % 32) % 32 = 0 := by omega
    have hacross : 7 - (c + 64 - x0 % 64) % 64 = k := by omega
    rw [hdown, hacross]
    exact ⟨by omega, by omega, hbit⟩

section row

variable {x0 c : Nat} (s : Byte) (y r : Nat) (hx : x0 < 64) (hc : c < 64)

include hx hc

/-- The high bits of a row are its part in the byte of column x0. -/
theorem byteMask_first :
    byteMask (fbIndex y (x0 / 8)) (s >>> (x0 % 8)) c r = (decide (c / 8 = x0 / 8) && spriteBit [s] x0 y c r) := by
  rw [Bool.eq_iff_iff, byteMask, Bool.and_eq_true, Bool.and_eq_true, spriteBit_singleton_iff s y r hx hc,
    decide_eq_true_eq, decide_eq_true_eq, fbIndex_eq_iff, BitVec.getLsbD_ushiftRight]
  constructor
  · rintro ⟨⟨hrow, hbyte⟩, hbit⟩
    have := BitVec.lt_of_getLsbD hbit
    exact ⟨by omega, hrow, _, this, by omega, hbit⟩
  · rintro ⟨hbyte, hrow, k, hk, hcol, hbit⟩
    have hindex : x0 % 8 + (7 - c % 8) = k := by omega
    exact ⟨⟨hrow, by omega⟩, hindex ▸ hbit⟩

/-- The low bits of a row are its part outside that byte. -/
theorem byteMask_second :
    byteMask (fbIndex y (x0 / 8 + 1)) (s <<< (8 - x0 % 8)) c r =
      (!decide (c / 8 = x0 / 8) && spriteBit [s] x0 y c r) := by
  rw [Bool.eq_iff_iff, byteMask, Bool.and_eq_true, Bool.and_eq_true, spriteBit_singleton_iff s y r hx hc,
    Bool.not_eq_true', decide_eq_false_iff_not, decide_eq_true_eq, fbIndex_eq_iff, BitVec.getLsbD_shiftLeft]
  simp only [Bool.and_eq_true, Bool.not_eq_true', decide_eq_true_eq, decide_eq_false_iff_not]
  constructor
  · rintro ⟨⟨hrow, hbyte⟩, ⟨-, hlow⟩, hbit⟩
    exact ⟨by omega, hrow, _, BitVec.lt_of_getLsbD hbit, by omega, hbit⟩
  · rintro ⟨hbyte, hrow, k, hk, hcol, hbit⟩
    have hindex : 7 - c % 8 - (8 - x0 % 8) = k := by omega
    exact ⟨⟨hrow, by omega⟩, ⟨by omega, by omega⟩, hindex ▸ hbit⟩

/-- A row that starts at a byte boundary has no part outside that byte. -/
theorem spriteBit_singleton_aligned (hoff : x0 % 8 = 0) :
    (decide (c / 8 = x0 / 8) && spriteBit [s] x0 y c r) = spriteBit [s] x0 y c r := by
  rw [Bool.and_eq_right_iff_imp, spriteBit_singleton_iff s y r hx hc, decide_eq_true_eq]
  rintro ⟨-, k, hk, hcol, -⟩
  omega

end row

theorem blits_drawRow (fb : Framebuffer) (s : Byte) {x0 : Nat} (y : Nat) (hx : x0 < 64) :
    Blits fb (drawRow fb s x0 y) (spriteBit [s] x0 y) := by
  have hfirst := (blits_xorByte fb (fbIndex y (x0 / 8)) (s >>> (x0 % 8))).congr
    fun c hc r _ => byteMask_first s y r hx hc
  unfold drawRow
  by_cases hoff : x0 % 8 = 0
  · rw [if_pos hoff]
    exact hfirst.congr fun c hc r _ => spriteBit_singleton_aligned s y r hx hc hoff
  · rw [if_neg hoff]
    exact hfirst.of_parts ((blits_xorByte _ _ _).congr fun c hc r _ => byteMask_second s y r hx hc)

/-! ### A sprite -/

section sprite

variable (s : Byte) (rest : List Byte) (x0 y c r : Nat)

/-- The top row of a sprite is its part in screen row y. -/
theorem spriteBit_top :
    spriteBit [s] x0 y c r = (decide (r % 32 = y % 32) && spriteBit (s :: rest) x0 y c r) := by
  by_cases hrow : r % 32 = y % 32
  · have hdown : (r + 32 - y % 32) % 32 = 0 := by omega
    simp [spriteBit, hrow, hdown]
  · have hdown : (r + 32 - y % 32) % 32 ≠ 0 := by omega
    simp [spriteBit, hrow, hdown]

/-- The rows below the top are its part in the other screen rows. -/
theorem spriteBit_below (hlen : rest.length < 32) :
    spriteBit rest x0 (y + 1) c r = (!decide (r % 32 = y % 32) && spriteBit (s :: rest) x0 y c r) := by
  by_cases hrow : r % 32 = y % 32
  · have hdown : (r + 32 - (y + 1) % 32) % 32 = 31 := by omega
    have hout : ¬ 31 < rest.length := by omega
    simp [spriteBit, hrow, hdown, hout]
  · have hdown : (r + 32 - y % 32) % 32 = (r + 32 - (y + 1) % 32) % 32 + 1 := by omega
    simp [spriteBit, hrow, hdown]

end sprite

theorem blits_draw (fb : Framebuffer) {rows : List Byte} {x0 : Nat} (y : Nat) (hlen : rows.length ≤ 32) (hx : x0 < 64) :
    Blits fb (draw fb rows x0 y) (spriteBit rows x0 y) := by
  induction rows generalizing fb y with
  | nil => exact ⟨by simp [spriteBit], by simp [spriteBit]⟩
  | cons s rest ih =>
    rw [List.length_cons] at hlen
    have htop := (blits_drawRow fb s y hx).congr fun c _ r _ => spriteBit_top s rest x0 y c r
    have hbelow := (ih (drawRow fb s x0 y).1 (y + 1) (by omega)).congr
      fun c _ r _ => spriteBit_below s rest x0 y c r (by omega)
    exact draw_cons fb s rest x0 y ▸ htop.of_parts hbelow

/-- Settles O35: the sprite is the mask that `draw` XORs. -/
theorem blitterXorsPixelsWithWrap : Obligations.BlitterXorsPixelsWithWrap :=
  fun fb _ _ y0 c r hlen hx _ hc hr => (blits_draw fb y0 hlen hx).pixel_eq c hc r hr

/-- Settles O36: the flag of a XORed mask, with the sprite as the mask. -/
theorem collisionIsAClearedPixel : Obligations.CollisionIsAClearedPixel :=
  fun fb _ _ y0 hlen hx _ => (blits_draw fb y0 hlen hx).flag_iff_cleared

/-- Settles O37: both drawings XOR the same mask. -/
theorem drawingTwiceRestoresTheFramebuffer : Obligations.DrawingTwiceRestoresTheFramebuffer :=
  fun fb _ _ y0 hlen hx _ => (blits_draw fb y0 hlen hx).cancel (blits_draw _ y0 hlen hx)

/-! ### The display instructions -/

theorem getElem_clearFb (b : Fin 256) : clearFb[b] = 0 := by
  rw [clearFb, Fin.getElem_fin, Vector.getElem_replicate]

/-- Settles O33: `00E0` replaces the framebuffer by the clear one, emits and goes on. -/
theorem clsClearsTheFramebuffer : Obligations.ClsClearsTheFramebuffer := fun s =>
  ⟨decodeInvertsEncode .cls, _, rfl, getElem_clearFb, rfl, rfl,
    (((ChangesOnly.refl _ s).setFb clearFb (by simp)).advance (by simp)).emitDraw (by simp)⟩

section drw

variable (s : State) (x y n : Nibble)

/-- The drawing of a `DXYN`: the n bytes at I at (V[x] mod 64, V[y] mod 32) (R205). -/
def State.drawing : Framebuffer × Bool :=
  draw s.fb (s.mem.readBytes s.iAddr n.toNat) ((s.reg x).toNat % 64) ((s.reg y).toNat % 32)

theorem State.blits_drawing :
    Blits s.fb (s.drawing x y n)
      (spriteBit (s.mem.readBytes s.iAddr n.toNat) ((s.reg x).toNat % 64) ((s.reg y).toNat % 32)) := by
  have hlen : (s.mem.readBytes s.iAddr n.toNat).length ≤ 32 := by
    rw [Memory.length_readBytes]
    omega
  exact blits_draw s.fb _ hlen (Nat.mod_lt _ (by decide))

/-- A sprite of no rows draws nothing (R206, decision D22). -/
theorem State.drawing_of_n_eq_zero (hn : n.toNat = 0) : (s.drawing x y n).1 = s.fb := by
  rw [State.drawing, hn]
  rfl

/-- The state a draw leaves: its drawing in FB, the collision in VF, one pulse, and PC moved on (R205). -/
def State.drawn (d : Framebuffer × Bool) : State := ((s.setFb d.1).setFlag d.2).advance.emitDraw

theorem State.drawn_flag (d : Framebuffer × Bool) : (s.drawn d).reg 0xF#4 = flagByte d.2 := by
  simp [State.drawn, regVF]

theorem State.drawn_changesOnly (d : Framebuffer × Bool) :
    ChangesOnly [.fb, .reg 0xF#4, .drawEvents, .pc] s (s.drawn d) :=
  ((((ChangesOnly.refl _ s).setFb d.1 (by simp)).setFlag d.2 (by simp [regVF])).advance (by simp)).emitDraw (by simp)

variable {s n}

/-- `DXYN` completes where its rows lie in memory. -/
theorem exec_drw_of_inMemory (h : inMemory s.iAddr n.toNat = true) :
    exec (.drw x y n) s = .next (s.drawn (s.drawing x y n)) :=
  State.orRaise_of_some ((s.loadBytes_eq_some _ _ _).2 ⟨h, rfl⟩)

/-- `DXYN` faults where a row lies above 0xFFF (R207, decision D12). -/
theorem exec_drw_of_not_inMemory (h : inMemory s.iAddr n.toNat = false) :
    exec (.drw x y n) s = .next (s.faultedAt .invariantAddress (encode (.drw x y n))) :=
  State.orRaise_of_none ((s.loadBytes_eq_none _ _).2 h)

end drw

/-- Settles O34: a draw ends by whether its rows lie in memory, and its drawing XORs the sprite. -/
theorem drwDrawsAndSetsCollision : Obligations.DrwDrawsAndSetsCollision := by
  rintro x y n s _ rfl
  refine ⟨decodeInvertsEncode (.drw x y n), fun hfits => ?_,
    fun hn hover => exec_drw_of_not_inMemory x y ((inMemory_eq_false_iff _ _).2 ⟨hn, hover⟩)⟩
  have hdraw := s.blits_drawing x y n
  refine ⟨_, exec_drw_of_inMemory x y ((inMemory_iff _ _).2 (by omega)), hdraw.pixel_eq, fun hhit => ?_,
    fun hmiss => ?_, s.drawing_of_n_eq_zero x y n, rfl, rfl, s.drawn_changesOnly _⟩
  · rw [State.drawn_flag, hdraw.flag_iff.2 hhit]
    rfl
  · rw [State.drawn_flag, Bool.eq_false_iff.2 (mt hdraw.flag_iff.1 hmiss)]
    rfl

end Sys2Proof.Machine
end

section
/-! PROOF. Key input (45_input.md R230-R233): the two outcomes of a key skip, the start of a key wait, and what a key press
does to a core that waits and to one that does not. -/

namespace Sys2Proof.Machine

/-! ### Key skips -/

section keySkips

variable {s : State}

/-- A sample takes the levels at the head of the plan, and the plan is left without them (R45). -/
theorem State.keysSample_of_plan {keys : BitVec 16} {rest : List (BitVec 16)} (h : s.keysPlan = keys :: rest) :
    s.keysSample = keys ∧ s.afterKeysSample.keysPlan = rest := by
  simp [State.keysSample, h]

/-- An empty plan stays empty. -/
theorem State.afterKeysSample_keysPlan_of_nil (h : s.keysPlan = []) : s.afterKeysSample.keysPlan = [] := by
  simp [h]

/-- Where a skip on the level of a key leaves PC, for a key that is down and for one that is up. -/
theorem State.skipIf_keyDown_pc (s : State) (keys : BitVec 16) (key : Byte) (level : Bool) :
    (s.skipIf (keyDown keys key == level)).pc =
      if keys.getLsbD key.toNat = true then (s.skipIf (true == level)).pc else (s.skipIf (false == level)).pc := by
  rw [keyDown]
  cases keys.getLsbD key.toNat with
  | true => rfl
  | false => rfl

/-- For a key that exists, a key skip takes one sample and skips on the key's level in it, and on nothing else. -/
theorem State.exists_keySkip {x : Nibble} (level : Bool) (w : Word) (hkey : (s.reg x).toNat ≤ 0xF) :
    ∃ (t : State) (keys : BitVec 16), s.keySkip x level w = .next t ∧
      (∀ k rest, s.keysPlan = k :: rest → keys = k ∧ t.keysPlan = rest) ∧ (s.keysPlan = [] → t.keysPlan = []) ∧
      t.samples = s.samples + 1 ∧
      t.pc = (if keys.getLsbD (s.reg x).toNat = true then (s.skipIf (true == level)).pc
        else (s.skipIf (false == level)).pc) ∧
      ChangesOnly [.pc, .keysPlan, .samples] s t :=
  ⟨_, s.keysSample, (s.keySkip_eq_next _ x level w).2 (.inr ⟨Nat.not_lt.2 hkey, rfl⟩),
    fun _ _ => State.keysSample_of_plan, State.afterKeysSample_keysPlan_of_nil, rfl,
    s.afterKeysSample.skipIf_keyDown_pc _ _ _,
    ((ChangesOnly.refl _ s).afterKeysSample (by simp) (by simp)).skipIf _ (by simp)⟩

/-- For an index above 0xF, a key skip ends in the key fault. -/
theorem State.keySkip_of_no_key {x : Nibble} (level : Bool) (w : Word) (hkey : (s.reg x).toNat > 0xF) :
    s.keySkip x level w = .next (s.faultedAt .invariantKey w) :=
  (s.keySkip_eq_next _ x level w).2 (.inl ⟨hkey, rfl⟩)

end keySkips

/-- Settles O38: the two instructions are the key skips on the levels 1 and 0. -/
theorem keySkipsSampleOnce : Obligations.KeySkipsSampleOnce := fun x _ =>
  ⟨⟨decodeInvertsEncode (.skp x), State.exists_keySkip true _, State.keySkip_of_no_key true _⟩,
    ⟨decodeInvertsEncode (.sknp x), State.exists_keySkip false _, State.keySkip_of_no_key false _⟩⟩

/-! ### The key wait -/

/-- Settles O39: the wait is a write of the run state. -/
theorem keyWaitSuspends : Obligations.KeyWaitSuspends := fun x s =>
  ⟨decodeInvertsEncode (.ldVxK x), _, rfl, rfl, (ChangesOnly.refl _ s).setRun _ (by simp)⟩

section keyPresses

variable {s t : State} {k : Nibble}

/-- A press completes the wait of a waiting core (R233). -/
theorem keyPress_of_waitingKey {x : Nibble} (h : s.run = .waitingKey x) :
    keyPress k s = (s.setReg x (k.setWidth 8)).advance.setRun .running := by
  rw [keyPress, h]

/-- A press does nothing to a core that does not wait (R44). -/
theorem keyPress_of_not_waitingKey (h : ∀ x, s.run ≠ .waitingKey x) : keyPress k s = s := by
  unfold keyPress
  split
  · next x hx => exact absurd hx (h x)
  all_goals rfl

theorem step_of_keyPress (h : s.nextEvent = .keyPress k) : step s = .next (keyPress k s.takeEvent) := by
  rw [step_eq, h, deliver]

/-- Taking an event off the list writes the list alone. -/
theorem ChangesOnly.takeEvent {ps : List Part} (h : ChangesOnly ps s t) (hevents : .events ∈ ps) :
    ChangesOnly ps s t.takeEvent :=
  h.trans fun p hp => by
    cases p with
    | events => exact absurd hevents hp
    | _ => simp [Part.kept]

/-- A key code keeps its number when it is widened to a byte. -/
theorem setWidth_key_toNat : (k.setWidth 8 : Byte).toNat = k.toNat := BitVec.toNat_setWidth_of_le (by decide)

end keyPresses

/-- Settles O40: with the event off the list, a press completes the wait or does nothing. -/
theorem keyPressCompletesTheWait : Obligations.KeyPressCompletesTheWait := by
  intro s k hn
  rw [step_of_keyPress hn]
  refine ⟨fun x hwait => ?_, fun hr => congrArg _ (keyPress_of_not_waitingKey (s := s.takeEvent) hr)⟩
  refine ⟨_, congrArg _ (keyPress_of_waitingKey (s := s.takeEvent) hwait), ?_, rfl, rfl, rfl, ?_⟩
  · rw [State.reg_setRun, State.reg_setReg_advance, setWidth_key_toNat]
  · exact ((((ChangesOnly.refl _ s).takeEvent (by simp)).setReg x _ (by simp)).advance (by simp)).setRun _ (by simp)

end Sys2Proof.Machine
end

section
/-! PROOF. The timers (46_timers.md R250-R254): the three instructions that move a byte to or from a timer, one `tick`,
and any number of them in a row. -/

namespace Sys2Proof.Machine

/-! ### The timer instructions -/

/-- Settles O41: the reader writes DT to its destination, and each of the two writers writes its timer and goes on. -/
theorem timerInstructionsMoveOneByte : Obligations.TimerInstructionsMoveOneByte := fun x s =>
  ⟨⟨decodeInvertsEncode (.ldVxDt x), _, rfl, s.reg_setReg_advance x s.dt, rfl, ChangesOnly.setReg_advance s x s.dt⟩,
    ⟨decodeInvertsEncode (.ldDtVx x), _, rfl, rfl, rfl,
      ((ChangesOnly.refl _ s).setDt _ (by simp)).advance (by simp)⟩,
    ⟨decodeInvertsEncode (.ldStVx x), _, rfl, rfl, rfl,
      ((ChangesOnly.refl _ s).setSt _ (by simp)).advance (by simp)⟩⟩

/-! ### One tick -/

section ticks

variable {s : State}

theorem step_of_tick (hn : s.nextEvent = .tick) : step s = .next (tick s.takeEvent) := by
  rw [step_eq, hn, deliver]

/-- Before the first reset no timer runs (R251, decision D29). -/
theorem tick_of_unreset (hr : s.run = .unreset) : tick s = s := by
  rw [tick, hr]

/-- The step that delivers a `tick` after the first reset: each timer is one less, stopping at 0, and the event is off
the list (R250, R251). -/
theorem exists_step_of_tick (hr : s.run ≠ .unreset) (hn : s.nextEvent = .tick) :
    ∃ t, step s = .next t ∧ t.dt.toNat = s.dt.toNat - 1 ∧ t.st.toNat = s.st.toNat - 1 ∧
      t.events = s.events.tail ∧ ChangesOnly [.dt, .st, .events] s t := by
  have hstep : step s = .next ((s.takeEvent.setDt (countDown s.dt)).setSt (countDown s.st)) :=
    (step_of_tick hn).trans (congrArg _ (tick_of_reset_done (s := s.takeEvent) hr))
  exact ⟨_, hstep, countDown_toNat s.dt, countDown_toNat s.st, rfl,
    (((ChangesOnly.refl _ s).takeEvent (by simp)).setDt _ (by simp)).setSt _ (by simp)⟩

end ticks

/-- Settles O42: a number less 1, stopping at 0, is the one clause above 0 and the other at 0. -/
theorem tickCountsBothTimersDown : Obligations.TickCountsBothTimersDown := by
  intro s hn
  refine ⟨fun hr => ?_, fun hr => ?_⟩
  · obtain ⟨t, hstep, hdt, hst, hevents, hframe⟩ := exists_step_of_tick hr hn
    exact ⟨t, hstep, fun _ => hdt, by omega, fun _ => hst, by omega, hevents, hframe⟩
  · rw [step_of_tick hn, tick_of_unreset (s := s.takeEvent) hr]

/-! ### Ticks in a row -/

/-- A run goes on from the state its first step answers. -/
theorem run_succ_of_step (M : Host.Core) {s t : M.State} (n : Nat) (h : M.step s = .next t) :
    M.run (n + 1) s = M.run n t := by
  rw [Host.Core.run, h]

/-- Settles O43, by induction on the number of ticks: the first is a `tick` of the state it finds, it keeps the run
state, and it leaves the others on the list. -/
theorem ticksBringTimersToZero : Obligations.TicksBringTimersToZero := by
  intro n
  induction n with
  | zero => exact fun s rest _ hlist => ⟨s, rfl, rfl, rfl, hlist, ChangesOnly.refl _ s⟩
  | succ n ih =>
    intro s rest hr hlist
    have hcons : s.events = .tick :: (List.replicate n .tick ++ rest) := hlist
    have hn : s.nextEvent = .tick := by rw [State.nextEvent, hcons, List.headD_cons]
    obtain ⟨u, hstep, hdt, hst, hevents, hframe⟩ := exists_step_of_tick hr hn
    have hrun : u.run = s.run := hframe .run (by simp)
    rw [hcons, List.tail_cons] at hevents
    obtain ⟨t, hsteps, hdt', hst', hrest, hframe'⟩ := ih u rest (hrun ▸ hr) hevents
    exact ⟨t, (run_succ_of_step Sys2Proof.core n hstep).trans hsteps, by omega, by omega, hrest, hframe.trans hframe'⟩

end Sys2Proof.Machine
end

section
/-! PROOF. Reset (70_reset_and_hazards.md R300, R301): the values after reset, the memory an accepted reset leaves, and a
reset that is refused. -/

namespace Sys2Proof.Machine

section resetRequests

variable {s : State} {rom : List Byte}

theorem step_of_resetReq (h : s.nextEvent = .resetReq rom) : step s = .next (resetReq rom s.takeEvent) := by
  rw [step_eq, h, deliver]

/-- A refused reset writes the answer alone (R301, decision D21). -/
theorem resetReq_of_oversized (s : State) (h : rom.length > 3584) :
    resetReq rom s = { s with resetAck := some .romTooLarge } :=
  if_neg (Nat.not_le_of_gt h)

end resetRequests

/-- Settles O45: with the event off the list, a refused reset writes the answer alone. -/
theorem oversizedRomIsRefused : Obligations.OversizedRomIsRefused := by
  intro s rom hn hbig
  rw [step_of_resetReq hn, resetReq_of_oversized _ hbig]

theorem State.reg_reset (x : Nibble) : State.reset.reg x = 0 := by
  simp [State.reg, State.reset]

theorem State.stack_reset (j : Fin 16) : State.reset.stack[j] = 0 := by
  simp [State.reset]

/-- Settles O46: no byte is listed after reset, so each reads as unlisted, and the framebuffer is the clear one. -/
theorem resetStateHoldsTheResetValues : Obligations.ResetStateHoldsTheResetValues :=
  ⟨fun _ _ => rfl, fun _ hfont _ => Memory.unlisted_of_font_le hfont, State.reg_reset, rfl, rfl, rfl, State.stack_reset,
    rfl, rfl, getElem_clearFb, rfl, rfl⟩

section romImage

variable (font : Font) {rom : List Byte} (hfits : rom.length ≤ 3584)

include hfits

theorem read_romImage_font {a : Nat} (ha : a < 80) : (romImage font rom).read a = font[a] := by
  have hlen : a < font.toList.length := by simpa using ha
  rw [read_romImage font hfits, if_neg (by omega), List.getD_eq_getElem _ _ hlen, Vector.getElem_toList]

theorem read_romImage_between {a : Nat} (hfont : 0x50 ≤ a) (ha : a < 0x200) : (romImage font rom).read a = 0 := by
  rw [read_romImage font hfits, if_neg (by omega), List.getD_eq_default _ _ (by simpa using hfont)]

theorem read_romImage_rom {j : Nat} (hj : j < rom.length) : (romImage font rom).read (0x200 + j) = rom[j] := by
  rw [read_romImage font hfits, if_pos (by omega), Nat.add_sub_cancel_left, List.getD_eq_getElem _ _ hj]

theorem read_romImage_above {a : Nat} (ha : 0x200 + rom.length ≤ a) : (romImage font rom).read a = 0 := by
  rw [read_romImage font hfits, if_pos (by omega), List.getD_eq_default _ _ (by omega)]

end romImage

/-- Settles O44: memory is the image of the FONT and the ROM, and every register is that of the state after reset. -/
theorem acceptedResetSetsEveryField : Obligations.AcceptedResetSetsEveryField := by
  intro s rom hn hfits
  have hfits' : rom.length ≤ Config.romMax := hfits
  rw [step_of_resetReq hn, resetReq, if_pos hfits']
  exact ⟨_, rfl, fun _ => read_romImage_font s.font hfits, fun _ => read_romImage_between s.font hfits,
    fun _ => read_romImage_rom s.font hfits, fun _ ha _ => read_romImage_above s.font hfits ha,
    State.reg_reset, rfl, rfl, rfl, State.stack_reset, rfl, rfl, getElem_clearFb, rfl, rfl, rfl⟩

end Sys2Proof.Machine
end

section
/-! PROOF. Faults (60_exceptions.md R270-R275): a cycle of a running core ends in a fault exactly where the fault's
condition holds, and then changes the run state alone; and no event but an accepted reset leaves `Faulted`. -/

namespace Sys2Proof.Machine

/-! ### From the fault to its condition -/

section faults

variable {s t : State} {c : Cause} {fpc fop : Word}

/-- A cycle that faults a running core has met the fault's condition, and leaves the record of R271 and nothing else. -/
theorem RunAfterCycle.eq_faultedAt (h : RunAfterCycle s t) (hr : s.run = .running) (ht : t.run = .faulted c fpc fop) :
    FaultCondition c s ∧ fop = recordedWord c s ∧ t = s.faultedAt c fop := by
  obtain hkept | ⟨x, -, -, rfl⟩ | ⟨d, hd, rfl⟩ := h
  · simp [hkept, hr] at ht
  · simp at ht
  · cases ht
    exact ⟨hd, rfl, rfl⟩

/-- What a fault's condition and its recorded word say of `s` does not depend on the listed events. -/
theorem FaultCondition_takeEvent (c : Cause) (s : State) :
    (FaultCondition c s.takeEvent ↔ FaultCondition c s) ∧ recordedWord c s.takeEvent = recordedWord c s :=
  FaultCondition_congr s.takeEvent_pc s.takeEvent_mem s.takeEvent_sp s.takeEvent_i s.takeEvent_v c

theorem recordedWord_of_ne (s : State) (hc : c ≠ .invariantPc) : recordedWord c s = s.fetch := by
  cases c with
  | invariantPc => exact absurd rfl hc
  | illegalOpcode | stackOverflow | stackUnderflow | invariantAddress | invariantKey => rfl

/-- A step of a running core that ends in a fault has met its condition in the state before the event was taken. -/
theorem eq_faultedAt_of_step (hr : s.run = .running) (hn : s.nextEvent = .step) (h : step s = .next t)
    (ht : t.run = .faulted c fpc fop) :
    FaultCondition c s ∧ fop = recordedWord c s ∧ t = s.takeEvent.faultedAt c fop := by
  obtain ⟨hcond, hword⟩ := FaultCondition_takeEvent c s
  have hcycle : RunAfterCycle s.takeEvent t := fetchExecute_runAfterCycle ((step_of_running hr hn).symm.trans h)
  obtain ⟨hc, hfop, heq⟩ := hcycle.eq_faultedAt hr ht
  exact ⟨hcond.1 hc, hfop.trans hword, heq⟩

end faults

/-- Settles O11: a fault of any cause but the PC's records the fetched word, which is the two bytes at PC. -/
theorem faultsArePrecise : Obligations.FaultsArePrecise := by
  intro s t c fpc fop hr hn h ht
  obtain ⟨-, hfop, rfl⟩ := eq_faultedAt_of_step hr hn h ht
  have hfpc : fpc = s.pc := by
    cases ht
    rfl
  refine ⟨hfpc, fun hc => ?_, fun hc => ?_, hfpc ▸ rfl⟩
  · rw [hfop, hc, recordedWord]
  · rw [hfop, recordedWord_of_ne s hc, s.fetch_toNat]

/-! ### From the condition to the fault -/

section conditions

variable {s : State}

/-- Each of the four block instructions faults where its block ends above 0xFFF (R270). -/
theorem fetchExecute_of_invariantAddress (h : FaultCondition .invariantAddress s) :
    ∃ w, fetchExecute s = .next (s.faultedAt .invariantAddress w) := by
  obtain ⟨hf, ⟨x, hd, hover⟩ | ⟨x, hd, hover⟩ | ⟨x, hd, hover⟩ | ⟨x, y, n, hd, hover⟩⟩ := h
  all_goals rw [fetchExecute_of_instr hf hd]
  · exact ⟨_, State.orRaise_of_none (State.storeBytes_of_overrun (length_bcdDigits _) hover)⟩
  · exact ⟨_, State.orRaise_of_none (State.storeBytes_of_overrun (s.length_regsUpTo x) hover)⟩
  · exact ⟨_, State.orRaise_of_none (State.loadBytes_of_overrun hover)⟩
  · exact ⟨_, exec_drw_of_not_inMemory x y ((inMemory_eq_false_iff _ _).2 hover)⟩

/-- Where the condition of a fault holds, the cycle ends in it: each condition says itself that no earlier check of
R275 fails. -/
theorem fetchExecute_of_faultCondition {c : Cause} (h : FaultCondition c s) :
    ∃ w, fetchExecute s = .next (s.faultedAt c w) := by
  cases c with
  | invariantPc => exact ⟨_, fetchExecute_of_not_fetchable h⟩
  | illegalOpcode =>
    obtain ⟨hf, hd⟩ := h
    exact ⟨_, fetchExecute_of_illegal hf hd⟩
  | stackOverflow =>
    obtain ⟨hf, hsp, nnn, hd⟩ := h
    exact ⟨_, (fetchExecute_of_instr hf hd).trans (exec_call_of_sp_eq_sixteen hsp)⟩
  | stackUnderflow =>
    obtain ⟨hf, hsp, hd⟩ := h
    exact ⟨_, (fetchExecute_of_instr hf hd).trans (exec_ret_of_sp_eq_zero hsp)⟩
  | invariantAddress => exact fetchExecute_of_invariantAddress h
  | invariantKey =>
    obtain ⟨hf, x, hd | hd, hkey⟩ := h
    · exact ⟨_, (fetchExecute_of_instr hf hd).trans (State.keySkip_of_no_key true _ hkey)⟩
    · exact ⟨_, (fetchExecute_of_instr hf hd).trans (State.keySkip_of_no_key false _ hkey)⟩

end conditions

/-- Settles O12: a fault is taken on its condition alone, and its condition makes the step take it. -/
theorem faultsHappenExactlyOnTheirConditions : Obligations.FaultsHappenExactlyOnTheirConditions := by
  intro s t c hr hn h
  refine ⟨fun ⟨fpc, fop, ht⟩ => (eq_faultedAt_of_step hr hn h ht).1, fun hc => ?_⟩
  obtain ⟨w, hw⟩ := fetchExecute_of_faultCondition ((FaultCondition_takeEvent c s).1.2 hc)
  rw [step_of_running hr hn] at h
  obtain rfl : s.takeEvent.faultedAt c w = t := Host.Outcome.next.inj (hw.symm.trans h)
  exact ⟨s.pc, w, rfl⟩

/-! ### Leaving a fault -/

/-- A timer period leaves the run state (R250, R251). -/
@[simp] theorem tick_run (s : State) : (tick s).run = s.run := by
  unfold tick
  split <;> rfl

/-- Settles O13: of the four events, a step and a press do nothing to a faulted core, a tick moves the timers alone, and
a refused reset the answer alone. -/
theorem onlyAcceptedResetLeavesFaulted : Obligations.OnlyAcceptedResetLeavesFaulted := by
  intro s t c fpc fop hr h
  have hstays {u : State} (hu : step s = .next u) (hrun : u.run = .faulted c fpc fop) : t.run = .faulted c fpc fop :=
    Result.next_induction (·.run = .faulted c fpc fop) (hu.symm.trans h) hrun
  cases hn : s.nextEvent with
  | step => exact .inl (hstays (stepChangesNothingUnlessRunning s (by simp [hr]) hn) hr)
  | tick => exact .inl (hstays (step_of_tick hn) ((tick_run s.takeEvent).trans hr))
  | keyPress k =>
    have hidle : keyPress k s.takeEvent = s.takeEvent := keyPress_of_not_waitingKey (by simp [hr])
    exact .inl (hstays ((step_of_keyPress hn).trans (congrArg _ hidle)) hr)
  | resetReq rom =>
    obtain hbig | hfits := Nat.lt_or_ge 3584 rom.length
    · exact .inl (hstays (oversizedRomIsRefused s rom hn hbig) hr)
    · exact .inr ⟨rom, rfl, hfits⟩

end Sys2Proof.Machine
end
